-- ==== Sys2Proof/Config.lean ====
section
/-! DEFINITION. The elaboration-time parameters of the block (00_scope.md R5), what the environment drives, and the free values. -/

namespace Sys2Proof

/-- The parameters of 00_scope.md R5. No register or port can change them (10_state.md R37). -/
structure Config where
  /-- `CLK_HZ`, a positive integer: used only to compute the default of `bitCycles` (U1). -/
  clkHz : PNat
  /-- `BIT_CYCLES`: clock cycles per bit cell, the bit timer's period. -/
  bitCycles : Nat
  /-- `CONF_CYCLES`: clock cycles between two confirmation reads. -/
  confCycles : Nat
  /-- `ACCEPT_MASK`: the frame bits the acceptance test compares. -/
  acceptMask : BitVec 14
  /-- `ACCEPT_MATCH`: the value the masked frame must equal. -/
  acceptMatch : BitVec 14
  deriving DecidableEq, Repr

/-- What the environment drives during one clock cycle (20_memory.md R50): a clean Boolean level on `ir_in` (R59) and `rst`. -/
structure Input where
  /-- `ir_in`: the level that the edge ending this cycle samples (00_scope.md R9). -/
  ir : Bool
  /-- `rst`: synchronous reset, active high (70_reset_and_hazards.md R180). -/
  rst : Bool
  deriving DecidableEq, Repr, Inhabited

namespace Config

/-- FREE VALUE (log 1): what the environment drives in a cycle past the end of the listed stimulus, by cycle number. -/
opaque freeInput : Nat → Input

/-- FREE VALUE (log 7): whether `round` in the default of `BIT_CYCLES` rounds up when `CLK_HZ * 1.778e-3` is halfway
between two integers; 00_scope.md R5 does not say. -/
opaque tieRoundsUp : Nat → Bool

/-- `round(CLK_HZ * 1.778e-3)`, the default of `BIT_CYCLES` (00_scope.md R5), in exact arithmetic. -/
def defaultBitCycles (clkHz : PNat) : Nat :=
  let whole := clkHz.val * 1778 / 1000000
  let rest := clkHz.val * 1778 % 1000000
  if rest < 500000 then whole
  else if 500000 < rest then whole + 1
  else if tieRoundsUp clkHz.val then whole + 1 else whole

/-- `floor(BIT_CYCLES / 16)`, the default of `CONF_CYCLES` (00_scope.md R5), for whatever `BIT_CYCLES` the instance has. -/
def defaultConfCycles (bitCycles : Nat) : Nat := bitCycles / 16

/-- The default of `ACCEPT_MASK` (00_scope.md R5): bits 12 and 11. -/
def defaultAcceptMask : BitVec 14 := 0x1800#14

/-- The default of `ACCEPT_MATCH` (00_scope.md R5): bit 12 = 1, bit 11 = 0. -/
def defaultAcceptMatch : BitVec 14 := 0x1000#14

/-- The parameters an instance gives; each one not given takes its default. `CLK_HZ` has none (00_scope.md R5). -/
structure Given where
  bitCycles : Option Nat := none
  confCycles : Option Nat := none
  acceptMask : Option (BitVec 14) := none
  acceptMatch : Option (BitVec 14) := none
  deriving DecidableEq, Repr

/-- The configuration of an instance (00_scope.md R5): what it gives, and the defaults for the rest. -/
def elaborated (clkHz : PNat) (given : Given) : Config where
  clkHz := clkHz
  bitCycles := given.bitCycles.getD (defaultBitCycles clkHz)
  confCycles := given.confCycles.getD (defaultConfCycles (given.bitCycles.getD (defaultBitCycles clkHz)))
  acceptMask := given.acceptMask.getD defaultAcceptMask
  acceptMatch := given.acceptMatch.getD defaultAcceptMatch

/-- The configuration every default of 00_scope.md R5 gives for a clock frequency. -/
def defaults (clkHz : PNat) : Config := elaborated clkHz {}

/-- `DW`, the width of the delay counter (00_scope.md R7). Not observable. -/
def delayWidth (c : Config) : Nat := max 1 (Nat.clog 2 c.confCycles)

/-- `TW`, the width of the bit timer (00_scope.md R7). Not observable. -/
def timerWidth (c : Config) : Nat := max 1 (Nat.clog 2 c.bitCycles)

end Config

end Sys2Proof
end

