-- ==== Sys2Proof/Word.lean ====
section
/-! DEFINITION. The words the block is decoded from (30_encoding.md): the 10-bit selector word and the 14-bit RC5 frame. -/

namespace Sys2Proof

/-- The two formats of spec/opcode_table.json: "selector" and "rc5_frame14". -/
inductive Format where
  /-- The 10-bit word formed each cycle from the state (30_encoding.md R76). -/
  | selector
  /-- The 14-bit word the block assembles and classifies (30_encoding.md R70). -/
  | frame14
  deriving DecidableEq, Repr

/-- A word together with its format. The two formats overlap as plain numbers, so a word says which one it is. -/
inductive Word where
  | selector (sel : BitVec 10)
  | frame14 (frame : BitVec 14)
  deriving DecidableEq, Repr

namespace Word

def format : Word → Format
  | selector _ => .selector
  | frame14 _ => .frame14

/-- The word's bits, bit 0 least significant, zero-extended to the wider of the two formats. -/
def bits : Word → BitVec 14
  | selector sel => sel.setWidth 14
  | frame14 frame => frame

end Word

end Sys2Proof
end

