-- ==== Sys2Proof/Syntax.lean ====
section
/-! DEFINITION. One constructor for each row of spec/opcode_table.json: the sequencer's operations and the frame classes. -/

namespace Sys2Proof

/-- The rows of spec/opcode_table.json. A selector row has no operand: the bits it does not fix are don't-cares (30_encoding.md
R77). A frame-class row fixes bits 12 and 11 (R78); the other fields of the frame (R70) are its operands. -/
inductive Instr where
  /-- IDLE_WAIT (40_edge.md R103). -/
  | idleWait
  /-- PASS_ENTER (40_edge.md R104). -/
  | passEnter
  /-- CONF_DELAY (40_edge.md R105). -/
  | confDelay
  /-- CONF_NOISE (40_edge.md R106). -/
  | confNoise
  /-- CONF_NEXT (40_edge.md R107). -/
  | confNext
  /-- PASS_START (40_edge.md R108). -/
  | passStart
  /-- BIT_WAIT (41_sampling.md R123). -/
  | bitWait
  /-- BIT_ZERO (41_sampling.md R124). -/
  | bitZero
  /-- BIT_PROBE (41_sampling.md R125). -/
  | bitProbe
  /-- RCHK_DELAY (41_sampling.md R126). -/
  | rchkDelay
  /-- RCHK_ZERO (41_sampling.md R127). -/
  | rchkZero
  /-- RCHK_NEXT (41_sampling.md R128). -/
  | rchkNext
  /-- RCHK_ONE (41_sampling.md R129). -/
  | rchkOne
  /-- FRAME_ACCEPT (42_frame.md R140). -/
  | frameAccept
  /-- FRAME_REJECT (42_frame.md R141). -/
  | frameReject
  /-- ILLEGAL_STATE for the code 5 (42_frame.md R142). -/
  | illegalState5
  /-- ILLEGAL_STATE for the codes 6 and 7 (42_frame.md R142). -/
  | illegalState67
  /-- A frame with S2 = 1 and T = 0 (30_encoding.md R78, 42_frame.md R140). -/
  | rc5Accept (s1 : Bool) (address : BitVec 5) (command : BitVec 6)
  /-- A frame with S2 = 0 (30_encoding.md R78, 42_frame.md R141). -/
  | rc5RejectS2 (s1 : Bool) (toggle : Bool) (address : BitVec 5) (command : BitVec 6)
  /-- A frame with S2 = 1 and T = 1 (30_encoding.md R78, 42_frame.md R141). -/
  | rc5RejectT (s1 : Bool) (address : BitVec 5) (command : BitVec 6)
  deriving DecidableEq, Repr

end Sys2Proof
end

