-- ==== Sys2Proof/WellFormed.lean ====
section
/-! DEFINITION. Which configurations the model gives a meaning (00_scope.md R6) and which instruction terms the block can meet. -/

namespace Sys2Proof

namespace Config

/-- 00_scope.md R6 condition 1. -/
def confOk (c : Config) : Bool := decide (1 ≤ c.confCycles)

/-- 00_scope.md R6 condition 2. -/
def bitOk (c : Config) : Bool := decide (2 * c.confCycles + 2 ≤ c.bitCycles)

/-- 00_scope.md R6 condition 3: the match value has no bit outside the mask. -/
def matchOk (c : Config) : Bool := c.acceptMatch &&& ~~~c.acceptMask == 0#14

/-- Conditions 1 to 3 of 00_scope.md R6: a configuration that breaks one gets no meaning. -/
def wellFormed (c : Config) : Bool := c.confOk && c.bitOk && c.matchOk

/-- The alignment condition of 00_scope.md R6: a premise of frame correctness (42_frame.md R145), never a refusal. -/
def aligned (c : Config) : Bool := decide (10 * c.confCycles + 6 ≤ c.bitCycles)

end Config

/-- Bit 13 of an RC5 frame is the start bit S1, "always 1" (30_encoding.md R70): the block presets it (R74), so no frame it
assembles breaks this check. A selector operation has no field to check. -/
def Instr.wellFormed : Instr → Bool
  | .rc5Accept s1 _ _ => s1
  | .rc5RejectS2 s1 _ _ _ => s1
  | .rc5RejectT s1 _ _ => s1
  | .idleWait | .passEnter | .confDelay | .confNoise | .confNext | .passStart | .bitWait | .bitZero | .bitProbe
  | .rchkDelay | .rchkZero | .rchkNext | .rchkOne | .frameAccept | .frameReject | .illegalState5 | .illegalState67 => true

end Sys2Proof
end

