-- ==== Sys2Proof/Decode.lean ====
section
/-! DEFINITION. The state codes (30_encoding.md R75), the decoders of the two formats (R77, R78), the opcode table's rows, and the
encoder written from those rows. -/

namespace Sys2Proof

/-! ## State codes (30_encoding.md R75) -/

namespace Fsm

abbrev idle : BitVec 3 := 0#3
abbrev confirm : BitVec 3 := 1#3
abbrev waitBit : BitVec 3 := 2#3
abbrev recheck : BitVec 3 := 3#3
abbrev validate : BitVec 3 := 4#3

end Fsm

/-! ## Decoding -/

/-- The operation table of 30_encoding.md R77 over the selector's named bits. `lastb` is a don't-care in every row. -/
def selectOperation (fsm : BitVec 3) (pend dz line cmpf lastc acc : Bool) : Instr :=
  if fsm = Fsm.idle then
    if pend then .passEnter else .idleWait
  else if fsm = Fsm.confirm then
    if dz then
      if line then .confNoise else if lastc then .passStart else .confNext
    else .confDelay
  else if fsm = Fsm.waitBit then
    if cmpf then
      if line then .bitZero else .bitProbe
    else .bitWait
  else if fsm = Fsm.recheck then
    if dz then
      if line then .rchkZero else if lastc then .rchkOne else .rchkNext
    else .rchkDelay
  else if fsm = Fsm.validate then
    if acc then .frameAccept else .frameReject
  else if fsm = 5#3 then .illegalState5
  else .illegalState67

/-- Decoding a selector word: the fields of 30_encoding.md R76 into the table of R77. Total, since every word has a row. -/
def decodeSelector (sel : BitVec 10) : Instr :=
  selectOperation (sel.extractLsb' 7 3) (sel.getLsbD 6) (sel.getLsbD 5) (sel.getLsbD 4) (sel.getLsbD 3) (sel.getLsbD 2)
    (sel.getLsbD 0)

/-- The command field of a frame (30_encoding.md R72). -/
def commandField (frame : BitVec 14) : BitVec 6 := frame.extractLsb' 0 6

/-- The address field of a frame (30_encoding.md R72). -/
def addressField (frame : BitVec 14) : BitVec 5 := frame.extractLsb' 6 5

/-- The toggle bit of a frame (30_encoding.md R72). -/
def toggleField (frame : BitVec 14) : Bool := frame.getLsbD 11

/-- The second start bit of a frame (30_encoding.md R70). -/
def startField2 (frame : BitVec 14) : Bool := frame.getLsbD 12

/-- The first start bit of a frame (30_encoding.md R70). -/
def startField1 (frame : BitVec 14) : Bool := frame.getLsbD 13

/-- The class of a frame (30_encoding.md R78; opcode_table.json rows of format rc5_frame14). Total. -/
def decodeFrame (frame : BitVec 14) : Instr :=
  if startField2 frame then
    if toggleField frame then .rc5RejectT (startField1 frame) (addressField frame) (commandField frame)
    else .rc5Accept (startField1 frame) (addressField frame) (commandField frame)
  else .rc5RejectS2 (startField1 frame) (toggleField frame) (addressField frame) (commandField frame)

/-- Decoding a word of either format. -/
def decode : Word → Instr
  | .selector sel => decodeSelector sel
  | .frame14 frame => decodeFrame frame

/-! ## Words without a format (log 5) -/

/-- Why bits given without a format are no word of the block. -/
inductive DecodeError where
  /-- A number with a bit at or above the width it was given with. -/
  | widerThanGiven
  /-- A number with a bit above bit 13, the highest bit of either format. -/
  | widerThanFrame
  deriving DecidableEq, Repr

/-- Which word a number of `nbits` bits stands for. At most 10 bits can only be a selector word and 11 to 14 bits only a frame
(30_encoding.md R70, R76). In a wider container the number decides: below 1024 a selector word, else a frame. No well-formed
frame is below 1024, since its bit 13 is 1 (R70). DESIGN CHOICE (log 5), safe: the machine itself never decodes such a number. -/
def wordOfBits (nbits w : Nat) : Except DecodeError Word :=
  if 2 ^ nbits ≤ w then .error .widerThanGiven
  else if 2 ^ 14 ≤ w then .error .widerThanFrame
  else if nbits ≤ 10 then .ok (.selector (BitVec.ofNat 10 w))
  else if nbits ≤ 14 then .ok (.frame14 (BitVec.ofNat 14 w))
  else if w < 2 ^ 10 then .ok (.selector (BitVec.ofNat 10 w))
  else .ok (.frame14 (BitVec.ofNat 14 w))

/-- Decoding bits of any width given without a format: an instruction, or the name of what is wrong. -/
def decodeBits (nbits w : Nat) : Except DecodeError Instr :=
  match wordOfBits nbits w with
  | .ok word => .ok (decode word)
  | .error e => .error e

/-- The instruction the decoder reads from `nbits` bits `w` numbered as spec/opcode_table.json numbers them. -/
def decodeTableWord (nbits w : Nat) : Option Instr :=
  match decodeBits nbits w with
  | .ok i => some i
  | .error _ => none

/-! ## The opcode table and the encoder -/

/-- One row of spec/opcode_table.json: a word of the row's format belongs to it when its bits under `mask` equal `value`. -/
structure TableRow where
  mnemonic : String
  format : Format
  value : BitVec 14
  mask : BitVec 14
  deriving DecidableEq, Repr

/-- A word belongs to a row. -/
def TableRow.accepts (row : TableRow) (w : Word) : Bool :=
  row.format == w.format && w.bits &&& row.mask == row.value

/-- The row of spec/opcode_table.json an instruction stands for, with the table's own match and mask. -/
def tableRow : Instr → TableRow
  | .idleWait => ⟨"IDLE_WAIT", .selector, 0x000#14, 0x3C0#14⟩
  | .passEnter => ⟨"PASS_ENTER", .selector, 0x040#14, 0x3C0#14⟩
  | .confDelay => ⟨"CONF_DELAY", .selector, 0x080#14, 0x3A0#14⟩
  | .confNoise => ⟨"CONF_NOISE", .selector, 0x0B0#14, 0x3B0#14⟩
  | .confNext => ⟨"CONF_NEXT", .selector, 0x0A0#14, 0x3B4#14⟩
  | .passStart => ⟨"PASS_START", .selector, 0x0A4#14, 0x3B4#14⟩
  | .bitWait => ⟨"BIT_WAIT", .selector, 0x100#14, 0x388#14⟩
  | .bitZero => ⟨"BIT_ZERO", .selector, 0x118#14, 0x398#14⟩
  | .bitProbe => ⟨"BIT_PROBE", .selector, 0x108#14, 0x398#14⟩
  | .rchkDelay => ⟨"RCHK_DELAY", .selector, 0x180#14, 0x3A0#14⟩
  | .rchkZero => ⟨"RCHK_ZERO", .selector, 0x1B0#14, 0x3B0#14⟩
  | .rchkNext => ⟨"RCHK_NEXT", .selector, 0x1A0#14, 0x3B4#14⟩
  | .rchkOne => ⟨"RCHK_ONE", .selector, 0x1A4#14, 0x3B4#14⟩
  | .frameAccept => ⟨"FRAME_ACCEPT", .selector, 0x201#14, 0x381#14⟩
  | .frameReject => ⟨"FRAME_REJECT", .selector, 0x200#14, 0x381#14⟩
  | .illegalState5 => ⟨"ILLEGAL_STATE_5", .selector, 0x280#14, 0x380#14⟩
  | .illegalState67 => ⟨"ILLEGAL_STATE_6_7", .selector, 0x300#14, 0x300#14⟩
  | .rc5Accept _ _ _ => ⟨"RC5_ACCEPT", .frame14, 0x1000#14, 0x1800#14⟩
  | .rc5RejectS2 _ _ _ _ => ⟨"RC5_REJECT_S2", .frame14, 0x0000#14, 0x1000#14⟩
  | .rc5RejectT _ _ _ => ⟨"RC5_REJECT_T", .frame14, 0x1800#14, 0x1800#14⟩

/-- Assembling a frame from its fields, at the positions of 30_encoding.md R70. -/
def frameOfFields (s1 s2 toggle : Bool) (address : BitVec 5) (command : BitVec 6) : BitVec 14 :=
  BitVec.ofBool s1 ++ BitVec.ofBool s2 ++ BitVec.ofBool toggle ++ address ++ command

/-- The word of an instruction: the row's match value for a selector operation (its don't-care bits 0), the frame itself for a
frame class. -/
def encode : Instr → Word
  | .rc5Accept s1 address command => .frame14 (frameOfFields s1 true false address command)
  | .rc5RejectS2 s1 toggle address command => .frame14 (frameOfFields s1 false toggle address command)
  | .rc5RejectT s1 address command => .frame14 (frameOfFields s1 true true address command)
  | .idleWait => .selector 0x000#10
  | .passEnter => .selector 0x040#10
  | .confDelay => .selector 0x080#10
  | .confNoise => .selector 0x0B0#10
  | .confNext => .selector 0x0A0#10
  | .passStart => .selector 0x0A4#10
  | .bitWait => .selector 0x100#10
  | .bitZero => .selector 0x118#10
  | .bitProbe => .selector 0x108#10
  | .rchkDelay => .selector 0x180#10
  | .rchkZero => .selector 0x1B0#10
  | .rchkNext => .selector 0x1A0#10
  | .rchkOne => .selector 0x1A4#10
  | .frameAccept => .selector 0x201#10
  | .frameReject => .selector 0x200#10
  | .illegalState5 => .selector 0x280#10
  | .illegalState67 => .selector 0x300#10

end Sys2Proof
end

