-- ==== Sys2Proof/Machine/State.lean ====
section
/-! DEFINITION. The state of the block (10_state.md R20), what surrounds it in the model, and the state after reset. -/

namespace Sys2Proof.Machine

/-- The block's registers: exactly the rows of 10_state.md R20. -/
structure Regs where
  /-- First synchroniser flop (R21). -/
  s1 : Bool
  /-- Second synchroniser flop, the line level (R21). -/
  s2 : Bool
  /-- Edge-detect flop (R21). -/
  s3 : Bool
  /-- Edge-pending flag (R22). -/
  pend : Bool
  /-- Sequencer state code (R23, R75). -/
  fsm : BitVec 3
  /-- Confirmation delay counter (R24), an unbounded natural as R7 allows (log 3). -/
  dcnt : Nat
  /-- Confirmation index (R25). -/
  cidx : BitVec 2
  /-- Bit timer (R26), an unbounded natural as R7 allows (log 3). -/
  tmr : Nat
  /-- Sticky compare flag (R27). -/
  cmpf : Bool
  /-- Bits sampled in the current pass (R28). -/
  bcnt : BitVec 4
  /-- Frame shift register (R29). -/
  frame : BitVec 14
  /-- Command holding register (R30). -/
  outCmd : BitVec 6
  /-- Address holding register (R31). -/
  outAddr : BitVec 5
  /-- Toggle holding register (R32). -/
  outTog : Bool
  /-- Accepted-frame holding register (R33). -/
  outFrame : BitVec 14
  /-- Frame-accepted strobe (R34). -/
  valid : Bool
  /-- Pass-start pulse (R35). -/
  kick : Bool
  deriving DecidableEq, Repr

/-- The output ports (20_memory.md R50). -/
structure Ports where
  frameValid : Bool
  cmd : BitVec 6
  addr : BitVec 5
  toggle : Bool
  frame : BitVec 14
  busy : Bool
  wdtKick : Bool
  deriving DecidableEq, Repr

/-- How a pass ended, with the value recorded (60_exceptions.md R160). -/
inductive PassOutcome where
  /-- Raised by FRAME_ACCEPT; the value is the frame. -/
  | accept (frame : BitVec 14)
  /-- Raised by CONF_NOISE; the value is the index of the failing read, `cidx + 1`. -/
  | noise (read : Nat)
  /-- Raised by FRAME_REJECT; the value is the frame. -/
  | reject (frame : BitVec 14)
  /-- Raised by ILLEGAL_STATE; the value is the `fsm` code. -/
  | illegal (fsm : BitVec 3)
  deriving DecidableEq, Repr

/-- An entry of the outcome log (60_exceptions.md R160): the cycle in which the pass ended, and how. -/
structure LogEntry where
  cycle : Nat
  outcome : PassOutcome
  deriving DecidableEq, Repr

/-- The machine: an instance of the block with its configuration, and what the model keeps around it. -/
structure State where
  /-- The instance's parameters (00_scope.md R5); no step changes them. -/
  cfg : Config
  /-- The block's registers. -/
  regs : Regs
  /-- The number of the current cycle (00_scope.md R9). The model's own (log 8). -/
  cycle : Nat
  /-- What the environment drives in this cycle (the head) and the coming ones; free values past the end (log 1). -/
  stim : List Input
  /-- The model-only outcome log, oldest entry first (60_exceptions.md R160). -/
  outcomes : List LogEntry
  deriving DecidableEq, Repr

/-- The block has no fault: "There are no fatal errors in the core" (42_frame.md R142), and no rule traps (00_scope.md R10). -/
inductive Fault
  deriving DecidableEq, Repr

/-- Why a step gives no next state. -/
inductive Refusal where
  /-- Raised by a dispatch arm for an instruction that has no meaning yet; no arm does. Safe. -/
  | notModelled (mnemonic : String)
  /-- Raised by `step` for a configuration that breaks condition 1, 2 or 3 of 00_scope.md R6: "A model refuses a configuration
  that breaks 1, 2 or 3." Safe. -/
  | configNotWellFormed
  deriving DecidableEq, Repr

/-- The reset value of every register (10_state.md R20, 70_reset_and_hazards.md R180). -/
def Regs.reset : Regs where
  s1 := true
  s2 := true
  s3 := true
  pend := false
  fsm := Fsm.idle
  dcnt := 0
  cidx := 0
  tmr := 0
  cmpf := false
  bcnt := 0
  frame := 0
  outCmd := 0
  outAddr := 0
  outTog := false
  outFrame := 0
  valid := false
  kick := false

/-- The first cycle after reset (00_scope.md R9, 30_encoding.md R80) of an instance with configuration `c`, the environment
driving `stim`. -/
def State.resetWith (c : Config) (stim : List Input) : State where
  cfg := c
  regs := .reset
  cycle := 0
  stim := stim
  outcomes := []

/-- The machine right after reset. The configuration is the defaults for `CLK_HZ = 18000`, which are the test configuration of
95_test_vectors.md: DESIGN CHOICE (log 2), since the spec leaves `CLK_HZ` open. No input is listed: DESIGN CHOICE (log 1). -/
def State.reset : State := .resetWith (.defaults 18000) []

end Sys2Proof.Machine
end

