-- ==== Sys2Proof/Machine/Operands.lean ====
section
/-! DEFINITION. What an operation reads: the combinational signals (10_state.md R39), the selector word (30_encoding.md R76), the input
stream, and what the consumer reads, the output ports (20_memory.md R50). -/

namespace Sys2Proof.Machine

/-! ## Combinational signals (10_state.md R39) -/

/-- The synchronised line level. -/
abbrev line (r : Regs) : Bool := r.s2

/-- A falling edge seen this cycle (40_edge.md R101). -/
def fall (r : Regs) : Bool := r.s3 && !r.s2

/-- The timer compare event of this cycle (R39 `match`). -/
def tick (c : Config) (r : Regs) : Bool := r.tmr == c.bitCycles - 1

/-- The delay counter has run out. -/
def delayDone (r : Regs) : Bool := r.dcnt == 0

/-- The last confirmation read in CONFIRM, the last re-check elsewhere. -/
def lastConfirmation (r : Regs) : Bool := if r.fsm = Fsm.confirm then r.cidx == 2#2 else r.cidx == 1#2

/-- The bit being resolved is the 13th. -/
def lastBit (r : Regs) : Bool := r.bcnt == 12#4

/-- The acceptance test `Accept(frame)` (30_encoding.md R73). -/
def accept (c : Config) (frame : BitVec 14) : Bool := frame &&& c.acceptMask == c.acceptMatch

/-- The acceptance test of the frame register (R39 `acc`). -/
def frameAccepted (c : Config) (r : Regs) : Bool := accept c r.frame

/-- A pass is running. -/
def busy (r : Regs) : Bool := r.fsm != Fsm.idle

/-! ## The selector word -/

/-- `sel[9:0]` (30_encoding.md R76), `fsm` in the high bits and `acc` at bit 0. -/
def selector (c : Config) (r : Regs) : BitVec 10 :=
  r.fsm ++ BitVec.ofBool r.pend ++ BitVec.ofBool (delayDone r) ++ BitVec.ofBool (line r) ++ BitVec.ofBool r.cmpf
    ++ BitVec.ofBool (lastConfirmation r) ++ BitVec.ofBool (lastBit r) ++ BitVec.ofBool (frameAccepted c r)

/-- The operation this cycle runs (10_state.md R40 items 1 and 2). -/
def State.operation (s : State) : Instr := decodeSelector (selector s.cfg s.regs)

/-! ## The input stream -/

/-- What the environment drives `k` cycles from now: the listed input, or a free value past the end of the list (log 1). -/
def State.inputAt (s : State) (k : Nat) : Input :=
  match s.stim[k]? with
  | some i => i
  | none => Config.freeInput (s.cycle + k)

/-- What the environment drives in this cycle. -/
def State.input (s : State) : Input := s.inputAt 0

/-! ## The output ports -/

/-- The level of every output port (20_memory.md R50). -/
def ports (r : Regs) : Ports where
  frameValid := r.valid
  cmd := r.outCmd
  addr := r.outAddr
  toggle := r.outTog
  frame := r.outFrame
  busy := busy r
  wdtKick := r.kick

/-! ## Outcome codes (60_exceptions.md R160) -/

/-- The outcome's code. -/
def PassOutcome.code : PassOutcome → Nat
  | .accept _ => 0
  | .noise _ => 1
  | .reject _ => 2
  | .illegal _ => 3

/-- The value recorded with the outcome. -/
def PassOutcome.value : PassOutcome → Nat
  | .accept frame => frame.toNat
  | .noise read => read
  | .reject frame => frame.toNat
  | .illegal fsm => fsm.toNat

end Sys2Proof.Machine
end

