-- ==== Sys2Proof/Machine/Flags.lean ====
section
/-! DEFINITION. The one-bit flags (10_state.md R37): the edge-pending flag, the compare flag and the two strobes, each with the
priority of simultaneous events of 60_exceptions.md R165. -/

namespace Sys2Proof.Machine

/-- What the selected operation asserts towards the background updates. Nothing, unless its rule says so. -/
structure Controls where
  /-- `op == PASS_START` (41_sampling.md R121, R122). -/
  start : Bool := false
  /-- `consume`: BIT_ZERO and BIT_PROBE (41_sampling.md R122). -/
  consume : Bool := false
  /-- `clr`: the operations that end a pass (40_edge.md R102). -/
  clear : Bool := false
  /-- `op == FRAME_ACCEPT` (42_frame.md R143). -/
  strobe : Bool := false
  /-- `op == PASS_ENTER` (42_frame.md R143). -/
  kick : Bool := false
  deriving DecidableEq, Repr

/-- The edge-pending flag (40_edge.md R102): the clear wins over the set. -/
def nextPend (k : Controls) (r : Regs) : Bool :=
  if k.clear then false else if fall r then true else r.pend

/-- The compare flag (41_sampling.md R122): PASS_START wins over the set, and the set over the consumption. -/
def nextCmpf (c : Config) (k : Controls) (r : Regs) : Bool :=
  if k.start then false else if tick c r then true else if k.consume then false else r.cmpf

/-- The frame-accepted strobe (42_frame.md R143). -/
def nextValid (k : Controls) : Bool := k.strobe

/-- The pass-start pulse (42_frame.md R143). -/
def nextKick (k : Controls) : Bool := k.kick

end Sys2Proof.Machine
end

