-- ==== Sys2Proof/Machine/Ops.lean ====
section
/-! DEFINITION. The operations the meanings share: the background updates and the clock edge (10_state.md R40), the reset edge
(70_reset_and_hazards.md R180), entering and ending a pass (60_exceptions.md R166, R167), shifting a resolved bit in (41_sampling.md
R120) and validating a frame (42_frame.md R140, R141). A write of an operation reads the registers BEFORE the edge (00_scope.md
R9): each takes them as an argument of its own. -/

namespace Sys2Proof.Machine

/-! ## The clock edge -/

/-- The bit timer (41_sampling.md R121): PASS_START wins over counting. -/
def nextTmr (c : Config) (k : Controls) (r : Regs) : Nat :=
  if k.start then 0 else if tick c r then 0 else r.tmr + 1

/-- The background updates of every cycle with `rst = 0` (10_state.md R40 item 3): the synchroniser (40_edge.md R100), `pend`, `tmr`,
`cmpf` and the strobes. Every other register holds (R40 item 4). -/
def background (c : Config) (k : Controls) (ir : Bool) (r : Regs) : Regs :=
  { r with
    s1 := ir
    s2 := r.s1
    s3 := r.s2
    pend := nextPend k r
    tmr := nextTmr c k r
    cmpf := nextCmpf c k r
    valid := nextValid k
    kick := nextKick k }

/-- `emit` (00_scope.md R10): the outcome log with the outcome recorded in this cycle, if any, appended. -/
def emitted (s : State) : Option PassOutcome → List LogEntry
  | none => s.outcomes
  | some o => s.outcomes ++ [⟨s.cycle, o⟩]

/-- One rising edge with `rst = 0` (10_state.md R40): the background updates, the operation's writes, and the outcome it records.
The environment's stream moves on by one cycle. -/
def clockEdge (s : State) (k : Controls) (write : Regs → Regs) (outcome : Option PassOutcome) : State where
  cfg := s.cfg
  regs := write (background s.cfg k s.input.ir s.regs)
  cycle := s.cycle + 1
  stim := s.stim.tail
  outcomes := emitted s outcome

/-- One rising edge with `rst = 1` (70_reset_and_hazards.md R180): every register takes its reset value, no operation runs, `ir_in` is
not sampled and no outcome is recorded. -/
def resetEdge (s : State) : State where
  cfg := s.cfg
  regs := .reset
  cycle := s.cycle + 1
  stim := s.stim.tail
  outcomes := s.outcomes

/-! ## Writes the operations share -/

/-- Loading the delay counter (10_state.md R24). -/
def loadDelay (c : Config) (r : Regs) : Regs := { r with dcnt := c.confCycles - 1 }

/-- Counting the delay down (10_state.md R24): "only when it is not 0", so at 0 it stays (log 9). -/
def countDelay (before : Regs) (r : Regs) : Regs := { r with dcnt := before.dcnt - 1 }

/-- `ShiftIn(b)` (41_sampling.md R120), from the registers before the edge. -/
def shiftIn (bit : Bool) (before : Regs) (r : Regs) : Regs :=
  { r with
    frame := before.frame <<< 1 ||| (BitVec.ofBool bit).setWidth 14
    bcnt := before.bcnt + 1#4
    fsm := if lastBit before then Fsm.validate else Fsm.waitBit }

/-- The holding registers take a frame's fields (42_frame.md R140, 30_encoding.md R72). -/
def presentFrame (frame : BitVec 14) (r : Regs) : Regs :=
  { r with
    outCmd := commandField frame
    outAddr := addressField frame
    outTog := toggleField frame
    outFrame := frame }

/-! ## Entering and ending a pass -/

/-- Entering a pass (60_exceptions.md R166, 40_edge.md R104): nothing is saved, `pend` stays set, and `kick` is given. -/
def enterPass (s : State) : State :=
  clockEdge s { kick := true } (fun r => loadDelay s.cfg { r with fsm := Fsm.confirm, cidx := 0#2 }) none

/-- Ending a pass (60_exceptions.md R167): back to IDLE, `pend` cleared (the re-arm), the outcome recorded. -/
def endPass (s : State) (k : Controls) (write : Regs → Regs) (outcome : PassOutcome) : State :=
  clockEdge s { k with clear := true } (fun r => { write r with fsm := Fsm.idle }) (some outcome)

/-- Ending a pass with a frame the consumer gets (42_frame.md R140). -/
def acceptFrame (s : State) (frame : BitVec 14) : State :=
  endPass s { strobe := true } (presentFrame frame) (.accept frame)

/-- Ending a pass with a frame that is discarded silently (42_frame.md R141). -/
def rejectFrame (s : State) (frame : BitVec 14) : State :=
  endPass s {} id (.reject frame)

/-- Recovering from an illegal state code (42_frame.md R142). -/
def recoverIllegal (s : State) : State :=
  endPass s {} id (.illegal s.regs.fsm)

/-- The state in which the assembled frame is `frame`. -/
def State.withFrame (s : State) (frame : BitVec 14) : State :=
  { s with regs := { s.regs with frame := frame } }

/-- The VALIDATE cycle on an assembled frame: which of the two ends it takes is the acceptance test's answer (30_encoding.md R73). -/
def validateFrame (s : State) (frame : BitVec 14) : State :=
  if accept s.cfg frame then acceptFrame (s.withFrame frame) frame else rejectFrame (s.withFrame frame) frame

end Sys2Proof.Machine
end

