-- ==== Sys2Proof/Machine/Edge.lean ====
section
/-! DEFINITION. The operations of the states IDLE and CONFIRM (40_edge.md). -/

namespace Sys2Proof.Machine

/-- IDLE_WAIT (40_edge.md R103): the background updates only. -/
def execIdleWait (s : State) : Host.Outcome State Fault Refusal :=
  .next (clockEdge s {} id none)

/-- PASS_ENTER (40_edge.md R104). -/
def execPassEnter (s : State) : Host.Outcome State Fault Refusal :=
  .next (enterPass s)

/-- CONF_DELAY (40_edge.md R105). -/
def execConfDelay (s : State) : Host.Outcome State Fault Refusal :=
  .next (clockEdge s {} (countDelay s.regs) none)

/-- CONF_NOISE (40_edge.md R106); the recorded value is the index of the failing read (60_exceptions.md R160). -/
def execConfNoise (s : State) : Host.Outcome State Fault Refusal :=
  .next (endPass s {} id (.noise (s.regs.cidx.toNat + 1)))

/-- CONF_NEXT (40_edge.md R107). -/
def execConfNext (s : State) : Host.Outcome State Fault Refusal :=
  .next (clockEdge s {} (fun r => loadDelay s.cfg { r with cidx := s.regs.cidx + 1#2 }) none)

/-- PASS_START (40_edge.md R108): `tmr` and `cmpf` are cleared by the background updates it overrides. -/
def execPassStart (s : State) : Host.Outcome State Fault Refusal :=
  .next (clockEdge s { start := true } (fun r => { r with fsm := Fsm.waitBit, frame := 1#14, bcnt := 0#4 }) none)

end Sys2Proof.Machine
end

