-- ==== Sys2Proof/Machine/Frame.lean ====
section
/-! DEFINITION. The operations of VALIDATE and of the illegal state codes, and what the block does with a frame word (42_frame.md). -/

namespace Sys2Proof.Machine

/-- FRAME_ACCEPT (42_frame.md R140). -/
def execFrameAccept (s : State) : Host.Outcome State Fault Refusal :=
  .next (acceptFrame s s.regs.frame)

/-- FRAME_REJECT (42_frame.md R141). -/
def execFrameReject (s : State) : Host.Outcome State Fault Refusal :=
  .next (rejectFrame s s.regs.frame)

/-- ILLEGAL_STATE, the row of code 5 (42_frame.md R142). -/
def execIllegalState5 (s : State) : Host.Outcome State Fault Refusal :=
  .next (recoverIllegal s)

/-- ILLEGAL_STATE, the row of codes 6 and 7 (42_frame.md R142). -/
def execIllegalState67 (s : State) : Host.Outcome State Fault Refusal :=
  .next (recoverIllegal s)

/-! ## Frame words

The meaning of a frame word is the VALIDATE cycle in which it is the assembled frame: DEDUCED (log 4) from the rows' rules R140 and
R141. The class is the result under the default mask (30_encoding.md R78); under any mask the acceptance test decides (R73). -/

/-- RC5_ACCEPT: a frame with S2 = 1 and T = 0. -/
def execRc5Accept (s1 : Bool) (address : BitVec 5) (command : BitVec 6) (s : State) : Host.Outcome State Fault Refusal :=
  .next (validateFrame s (frameOfFields s1 true false address command))

/-- RC5_REJECT_S2: a frame with S2 = 0. -/
def execRc5RejectS2 (s1 toggle : Bool) (address : BitVec 5) (command : BitVec 6) (s : State) :
    Host.Outcome State Fault Refusal :=
  .next (validateFrame s (frameOfFields s1 false toggle address command))

/-- RC5_REJECT_T: a frame with S2 = 1 and T = 1. -/
def execRc5RejectT (s1 : Bool) (address : BitVec 5) (command : BitVec 6) (s : State) : Host.Outcome State Fault Refusal :=
  .next (validateFrame s (frameOfFields s1 true true address command))

end Sys2Proof.Machine
end

