-- ==== Sys2Proof/Machine/Sampling.lean ====
section
/-! DEFINITION. The operations of the states WAIT_BIT and RECHECK (41_sampling.md). -/

namespace Sys2Proof.Machine

/-- BIT_WAIT (41_sampling.md R123): the background updates only. -/
def execBitWait (s : State) : Host.Outcome State Fault Refusal :=
  .next (clockEdge s {} id none)

/-- BIT_ZERO (41_sampling.md R124). -/
def execBitZero (s : State) : Host.Outcome State Fault Refusal :=
  .next (clockEdge s { consume := true } (shiftIn false s.regs) none)

/-- BIT_PROBE (41_sampling.md R125). -/
def execBitProbe (s : State) : Host.Outcome State Fault Refusal :=
  .next (clockEdge s { consume := true } (fun r => loadDelay s.cfg { r with fsm := Fsm.recheck, cidx := 0#2 }) none)

/-- RCHK_DELAY (41_sampling.md R126). -/
def execRchkDelay (s : State) : Host.Outcome State Fault Refusal :=
  .next (clockEdge s {} (countDelay s.regs) none)

/-- RCHK_ZERO (41_sampling.md R127). -/
def execRchkZero (s : State) : Host.Outcome State Fault Refusal :=
  .next (clockEdge s {} (shiftIn false s.regs) none)

/-- RCHK_NEXT (41_sampling.md R128). -/
def execRchkNext (s : State) : Host.Outcome State Fault Refusal :=
  .next (clockEdge s {} (fun r => loadDelay s.cfg { r with cidx := 1#2 }) none)

/-- RCHK_ONE (41_sampling.md R129). -/
def execRchkOne (s : State) : Host.Outcome State Fault Refusal :=
  .next (clockEdge s {} (shiftIn true s.regs) none)

end Sys2Proof.Machine
end

