-- ==== Sys2Proof/Machine/Dispatch.lean ====
section
/-! DEFINITION. One arm per row of spec/opcode_table.json. An arm is the whole clock edge with `rst = 0` on which that operation runs. -/

namespace Sys2Proof.Machine

def exec (i : Instr) (s : State) : Host.Outcome State Fault Refusal :=
  match i with
  | .idleWait => Sys2Proof.Machine.execIdleWait s
  | .passEnter => Sys2Proof.Machine.execPassEnter s
  | .confDelay => Sys2Proof.Machine.execConfDelay s
  | .confNoise => Sys2Proof.Machine.execConfNoise s
  | .confNext => Sys2Proof.Machine.execConfNext s
  | .passStart => Sys2Proof.Machine.execPassStart s
  | .bitWait => Sys2Proof.Machine.execBitWait s
  | .bitZero => Sys2Proof.Machine.execBitZero s
  | .bitProbe => Sys2Proof.Machine.execBitProbe s
  | .rchkDelay => Sys2Proof.Machine.execRchkDelay s
  | .rchkZero => Sys2Proof.Machine.execRchkZero s
  | .rchkNext => Sys2Proof.Machine.execRchkNext s
  | .rchkOne => Sys2Proof.Machine.execRchkOne s
  | .frameAccept => Sys2Proof.Machine.execFrameAccept s
  | .frameReject => Sys2Proof.Machine.execFrameReject s
  | .illegalState5 => Sys2Proof.Machine.execIllegalState5 s
  | .illegalState67 => Sys2Proof.Machine.execIllegalState67 s
  | .rc5Accept s1 address command => Sys2Proof.Machine.execRc5Accept s1 address command s
  | .rc5RejectS2 s1 toggle address command => Sys2Proof.Machine.execRc5RejectS2 s1 toggle address command s
  | .rc5RejectT s1 address command => Sys2Proof.Machine.execRc5RejectT s1 address command s

end Sys2Proof.Machine
end

