-- ==== Sys2Proof/Machine/Fetch.lean ====
section
/-! DEFINITION. Making the block's next cycle run a given word (log 6): there is no instruction to fetch, so the registers the selector
is formed from are set to what the word says. -/

namespace Sys2Proof.Machine

/-- The stimulus with no reset in this cycle; where none is listed, one idle-high cycle (20_memory.md R59). -/
def stimWithoutReset : List Input → List Input
  | [] => [⟨true, false⟩]
  | i :: rest => { i with rst := false } :: rest

/-- `cidx` made to give the selector's `lastc` bit in state `fsm` (10_state.md R39), kept where it already does. -/
def cidxFor (fsm : BitVec 3) (lastc : Bool) (cidx : BitVec 2) : BitVec 2 :=
  let last := if fsm = Fsm.confirm then 2#2 else 1#2
  if lastc then last else if cidx = last then 0#2 else cidx

/-- `frame` made to give the selector's `acc` bit (30_encoding.md R73), kept where it already does. Under a mask of 0 every frame is
accepted, so a selector with `acc = 0` then cannot arise. -/
def frameFor (c : Config) (acc : Bool) (frame : BitVec 14) : BitVec 14 :=
  if accept c frame = acc then frame else if acc then c.acceptMatch else ~~~c.acceptMatch

/-- The registers changed no more than it takes for the selector word to be `sel` (30_encoding.md R76). -/
def regsForSelector (c : Config) (sel : BitVec 10) (r : Regs) : Regs :=
  { r with
    fsm := sel.extractLsb' 7 3
    pend := sel.getLsbD 6
    dcnt := if sel.getLsbD 5 then 0 else if r.dcnt = 0 then 1 else r.dcnt
    s2 := sel.getLsbD 4
    cmpf := sel.getLsbD 3
    cidx := cidxFor (sel.extractLsb' 7 3) (sel.getLsbD 2) r.cidx
    bcnt := if sel.getLsbD 1 then 12#4 else if r.bcnt = 12#4 then 0#4 else r.bcnt
    frame := frameFor c (sel.getLsbD 0) r.frame }

/-- The state whose next step runs the operation a selector word selects, or the VALIDATE cycle of a frame word. -/
def placeWord (s : State) : Word → State
  | .selector sel => { s with stim := stimWithoutReset s.stim, regs := regsForSelector s.cfg sel s.regs }
  | .frame14 frame =>
    { s with stim := stimWithoutReset s.stim, regs := { s.regs with fsm := Fsm.validate, frame := frame } }

/-- Placing bits given without a format; bits that are no word change nothing. -/
def placeBits (s : State) (nbits w : Nat) : State :=
  match wordOfBits nbits w with
  | .ok word => placeWord s word
  | .error _ => s

end Sys2Proof.Machine
end

