-- ==== Sys2Proof/Machine/Step.lean ====
section
/-! DEFINITION. One clock cycle (10_state.md R40): reset, or the operation the selector word selects. -/

namespace Sys2Proof.Machine

/-- One rising edge of `clk`. A configuration that is not well formed is refused before anything else (00_scope.md R6, R193); `rst`
overrides everything (60_exceptions.md R165 item 1); otherwise exactly one operation runs (R165 item 2). -/
def step (s : State) : Host.Outcome State Fault Refusal :=
  if s.cfg.wellFormed then
    if s.input.rst then .next (resetEdge s) else exec s.operation s
  else .refused .configNotWellFormed

/-- `s` made to run the word `w` of `nbits` bits in its next step (log 6). -/
def State.withFetchWord (s : State) (nbits w : Nat) : State := placeBits s nbits w

end Sys2Proof.Machine
end

