-- ==== Sys2Proof/Machine/Stimulus.lean ====
section
/-! DEFINITION. The stimulus language of 30_encoding.md R80 and its encoding R81: how the spec writes what the environment drives. -/

namespace Sys2Proof.Machine

/-- One item of a stimulus (30_encoding.md R80). -/
inductive StimulusItem where
  /-- `H n`. -/
  | high (n : Nat)
  /-- `L n`. -/
  | low (n : Nat)
  /-- `FRAME s2 t a c`. -/
  | frame (s2 toggle : Bool) (address : BitVec 5) (command : BitVec 6)
  /-- `BIT b`. -/
  | bit (b : Bool)
  /-- `RST n`. -/
  | reset (n : Nat)
  deriving DecidableEq, Repr

/-- The encoding of a stimulus (30_encoding.md R81): the run-length list of `ir_in`, and the cycles with `rst = 1`, rising. -/
structure StimulusCode where
  runs : List (Bool × Nat)
  resets : List Nat
  deriving DecidableEq, Repr

/-- One bit cell on the line (30_encoding.md R71, R80): the bit's own level, then its inverse, half a cell each. -/
def cellInputs (c : Config) (bit : Bool) : List Input :=
  List.replicate (c.bitCycles / 2) ⟨bit, false⟩ ++ List.replicate (c.bitCycles / 2) ⟨!bit, false⟩

/-- A frame's bits in the order they are sent, most significant first (20_memory.md R52). -/
def sentBits (frame : BitVec 14) : List Bool := (List.range 14).map fun k => frame.getLsbD (13 - k)

/-- A whole frame on the line (30_encoding.md R80). -/
def frameInputs (c : Config) (frame : BitVec 14) : List Input := (sentBits frame).flatMap (cellInputs c)

/-- The cycles an item stands for. The cell expansions "hold for even `BIT_CYCLES`" (30_encoding.md R80), so for an odd one `BIT`
and `FRAME` have none (log 12). -/
def StimulusItem.inputs (c : Config) : StimulusItem → Option (List Input)
  | .high n => some (List.replicate n ⟨true, false⟩)
  | .low n => some (List.replicate n ⟨false, false⟩)
  | .frame s2 toggle address command =>
    if c.bitCycles % 2 = 0 then some (frameInputs c (frameOfFields true s2 toggle address command)) else none
  | .bit b => if c.bitCycles % 2 = 0 then some (cellInputs c b) else none
  | .reset n => some (List.replicate n ⟨true, true⟩)

/-- The cycles a stimulus stands for, in order. -/
def stimulusInputs (c : Config) : List StimulusItem → Option (List Input)
  | [] => some []
  | item :: rest => do
    let first ← item.inputs c
    let others ← stimulusInputs c rest
    pure (first ++ others)

/-- The run-length list of a sequence of levels, adjacent runs of one level merged. -/
def runLengths : List Bool → List (Bool × Nat)
  | [] => []
  | level :: rest =>
    match runLengths rest with
    | (other, n) :: runs => if level = other then (level, n + 1) :: runs else (level, 1) :: (other, n) :: runs
    | [] => [(level, 1)]

/-- A run-length list unrolled. -/
def unrollRuns (runs : List (Bool × Nat)) : List Bool := runs.flatMap fun run => List.replicate run.2 run.1

/-- The cycles with `rst = 1`, counting from `n`. -/
def resetCyclesFrom (n : Nat) : List Input → List Nat
  | [] => []
  | i :: rest => if i.rst then n :: resetCyclesFrom (n + 1) rest else resetCyclesFrom (n + 1) rest

/-- The encoding of a stimulus's cycles (30_encoding.md R81). -/
def encodeStimulus (inputs : List Input) : StimulusCode where
  runs := runLengths (inputs.map (·.ir))
  resets := resetCyclesFrom 0 inputs

end Sys2Proof.Machine
end

