-- ==== Sys2Proof/Safety.lean ====
section
/-! DEFINITION. The terms claims are stated in: running several cycles, what the line holds at a coming cycle, the invariant of the
registers, and which states the outside cannot tell apart. -/

namespace Sys2Proof.Machine

/-! ## Running -/

/-- `n` clock cycles. -/
def cycles (n : Nat) (s : State) : Host.Outcome State Fault Refusal := Host.Core.run Sys2Proof.core n s

/-- `rst` stays 0 for the coming `n` cycles. -/
def State.NoReset (s : State) (n : Nat) : Prop := ∀ k, k < n → (s.inputAt k).rst = false

/-! ## The line ahead -/

/-- The synchronised line level `k` cycles from now, while `rst` stays 0: the two synchroniser flops delay the input by two cycles
(40_edge.md R100). -/
def State.lineAt (s : State) : Nat → Bool
  | 0 => s.regs.s2
  | 1 => s.regs.s1
  | k + 2 => (s.inputAt k).ir

/-- The value a bit resolves to whose first read is `q` cycles from now: 1 when all three reads are low (41_sampling.md R131). -/
def State.bitReadAt (s : State) (q : Nat) : Bool :=
  !s.lineAt q && !s.lineAt (q + s.cfg.confCycles) && !s.lineAt (q + 2 * s.cfg.confCycles)

/-- How many cycles after its first read a bit is resolved (41_sampling.md R130 item 3; 70_reset_and_hazards.md R191, `r`). -/
def State.resolveDelayAt (s : State) (q : Nat) : Nat :=
  if s.lineAt q then 0 else if s.lineAt (q + s.cfg.confCycles) then s.cfg.confCycles else 2 * s.cfg.confCycles

/-- The frame a pass assembles whose bit timer starts now (42_frame.md R144): S1 = 1 on top, then 13 bits, the k-th first read
`k * BIT_CYCLES` cycles from now. -/
def State.assembledFrame (s : State) : Nat → BitVec 14
  | 0 => 1#14
  | k + 1 => s.assembledFrame k <<< 1 ||| (BitVec.ofBool (s.bitReadAt ((k + 1) * s.cfg.bitCycles))).setWidth 14

/-! ## The invariant -/

/-- What every step keeps. The ranges are 00_scope.md R7 and 10_state.md R24 to R28; the rest says how the registers of a running pass
fit together. -/
structure Inv (s : State) : Prop where
  /-- The configuration is well formed (00_scope.md R6). -/
  config : s.cfg.wellFormed = true
  /-- `dcnt` holds 0 to `CONF_CYCLES - 1` (R7). -/
  delay : s.regs.dcnt < s.cfg.confCycles
  /-- `tmr` holds 0 to `BIT_CYCLES - 1` (R7). -/
  timer : s.regs.tmr < s.cfg.bitCycles
  /-- `cidx` holds 0 to 2 (R7). -/
  index : s.regs.cidx.toNat ≤ 2
  /-- `bcnt` holds 0 to 13 (R7). -/
  count : s.regs.bcnt.toNat ≤ 13
  /-- `fsm` holds no illegal code (42_frame.md R142). -/
  legal : s.regs.fsm.toNat ≤ 4
  /-- `pend` stays set for the whole pass (40_edge.md R104). -/
  pending : s.regs.fsm ≠ Fsm.idle → s.regs.pend = true
  /-- While bits are sampled, at most 12 are behind, and S1 stands just above them in `frame` (10_state.md R28, R29). -/
  sampling : s.regs.fsm = Fsm.waitBit ∨ s.regs.fsm = Fsm.recheck →
    s.regs.bcnt.toNat ≤ 12 ∧ s.regs.frame.toNat / 2 ^ s.regs.bcnt.toNat = 1
  /-- A compare event is acted on in the cycle it is first seen (41_sampling.md R130 item 1). -/
  waiting : s.regs.fsm = Fsm.waitBit → s.regs.cmpf = true → s.regs.tmr = 0
  /-- The re-checks run at fixed timer values, with no compare event pending (41_sampling.md R122, R130 item 2). -/
  rechecking : s.regs.fsm = Fsm.recheck →
    s.regs.cidx.toNat ≤ 1 ∧ s.regs.cmpf = false ∧
      s.regs.tmr + s.regs.dcnt = (s.regs.cidx.toNat + 1) * s.cfg.confCycles
  /-- A frame is validated with all 13 bits behind and S1 at bit 13 (10_state.md R29), and with no compare event pending (41_sampling.md
  R122): the next one falls due in that cycle at the earliest. -/
  validating : s.regs.fsm = Fsm.validate → s.regs.bcnt = 13#4 ∧ s.regs.frame.getLsbD 13 = true ∧ s.regs.cmpf = false
  /-- A strobe stands only in IDLE with `pend` cleared, and only for an accepted frame (42_frame.md R140, R143). -/
  strobing : s.regs.valid = true →
    s.regs.fsm = Fsm.idle ∧ s.regs.pend = false ∧ accept s.cfg s.regs.outFrame = true
  /-- The pass-start pulse stands only in CONFIRM (40_edge.md R104, 42_frame.md R143). -/
  kicking : s.regs.kick = true → s.regs.fsm = Fsm.confirm
  /-- The holding registers are the fields of one frame (20_memory.md R54). -/
  outputs : s.regs.outCmd = commandField s.regs.outFrame ∧ s.regs.outAddr = addressField s.regs.outFrame ∧
    s.regs.outTog = toggleField s.regs.outFrame

/-! ## What the outside cannot tell apart -/

/-- The registers a state of the sequencer still reads (10_state.md R38 items 3 to 5): two register files that agree on the
synchroniser, `pend`, `fsm` and the outputs, and on whatever the current state reads before it is loaded again. -/
structure SameFuture (a b : Regs) : Prop where
  s1 : a.s1 = b.s1
  s2 : a.s2 = b.s2
  s3 : a.s3 = b.s3
  pend : a.pend = b.pend
  fsm : a.fsm = b.fsm
  outputs : ports a = ports b
  /-- CONFIRM and RECHECK read `dcnt` and `cidx`. -/
  delays : a.fsm = Fsm.confirm ∨ a.fsm = Fsm.recheck → a.dcnt = b.dcnt ∧ a.cidx = b.cidx
  /-- WAIT_BIT and RECHECK read the timer, the compare flag and the bit count. -/
  timing : a.fsm = Fsm.waitBit ∨ a.fsm = Fsm.recheck → a.tmr = b.tmr ∧ a.cmpf = b.cmpf ∧ a.bcnt = b.bcnt
  /-- WAIT_BIT, RECHECK and VALIDATE read the frame. -/
  frame : a.fsm = Fsm.waitBit ∨ a.fsm = Fsm.recheck ∨ a.fsm = Fsm.validate → a.frame = b.frame

/-- Two machines in the same surroundings whose registers differ only in what is hidden now. -/
def Indistinguishable (s t : State) : Prop :=
  s.cfg = t.cfg ∧ s.cycle = t.cycle ∧ s.stim = t.stim ∧ s.outcomes = t.outcomes ∧ SameFuture s.regs t.regs

/-! ## Groups of operations -/

/-- The operations that end a pass (60_exceptions.md R167), with the frame words, whose cycle is VALIDATE's. -/
def endsPass : Instr → Bool
  | .confNoise | .frameAccept | .frameReject | .illegalState5 | .illegalState67 => true
  | .rc5Accept _ _ _ | .rc5RejectS2 _ _ _ _ | .rc5RejectT _ _ _ => true
  | .idleWait | .passEnter | .confDelay | .confNext | .passStart | .bitWait | .bitZero | .bitProbe | .rchkDelay
  | .rchkZero | .rchkNext | .rchkOne => false

/-- A row of the selector format: an operation the sequencer can select. -/
def isOperation (i : Instr) : Bool := (tableRow i).format == .selector

end Sys2Proof.Machine
end

