-- ==== Sys2Proof/Certificates/Slice0/Obligations.lean ====
section
/-! DEFINITION. The statements for the provers, from the numbered rules of spec/. -/

open Sys2Proof Sys2Proof.Machine

/-! ## Reset, the step and the decode -/

/-- 70_reset_and_hazards.md R180: an edge with `rst = 1` gives every register its reset value, whatever the state and `ir_in`; no
operation runs, no outcome is recorded, and the outputs are all 0. -/
def Obligations.ResetEdgeSetsEveryRegister : Prop :=
  ∀ s : State, s.cfg.wellFormed = true → s.input.rst = true →
    ∃ t, step s = .next t ∧ t.cfg = s.cfg ∧ t.outcomes = s.outcomes ∧ t.cycle = s.cycle + 1 ∧ t.stim = s.stim.tail ∧
      t.regs =
        { s1 := true, s2 := true, s3 := true, pend := false, fsm := 0#3, dcnt := 0, cidx := 0#2, tmr := 0, cmpf := false,
          bcnt := 0#4, frame := 0#14, outCmd := 0#6, outAddr := 0#5, outTog := false, outFrame := 0#14, valid := false,
          kick := false } ∧
      ports t.regs =
        { frameValid := false, cmd := 0#6, addr := 0#5, toggle := false, frame := 0#14, busy := false, wdtKick := false }

/-- 10_state.md R20: the machine after reset holds the reset value of every row of the table, for every configuration and every
stimulus, the model's own reset state among them. -/
def Obligations.ResetStateHoldsResetValues : Prop :=
  ∀ (r : Regs) (c : Config) (stim : List Input), r = (State.resetWith c stim).regs ∨ r = State.reset.regs →
    r =
      { s1 := true, s2 := true, s3 := true, pend := false, fsm := 0#3, dcnt := 0, cidx := 0#2, tmr := 0, cmpf := false,
        bcnt := 0#4, frame := 0#14, outCmd := 0#6, outAddr := 0#5, outTog := false, outFrame := 0#14, valid := false,
        kick := false }

/-- 00_scope.md R6, 70_reset_and_hazards.md R193, 10_state.md R40: a configuration that breaks condition 1, 2 or 3 is refused, in
every step by the model's reading (log 11), and under every other one the step is total. -/
def Obligations.StepRefusesExactlyIllFormedConfigs : Prop :=
  ∀ s : State,
    (1 ≤ s.cfg.confCycles ∧ 2 * s.cfg.confCycles + 2 ≤ s.cfg.bitCycles ∧ s.cfg.acceptMatch &&& ~~~s.cfg.acceptMask = 0#14 →
      ∃ t, step s = .next t) ∧
    (¬(1 ≤ s.cfg.confCycles ∧ 2 * s.cfg.confCycles + 2 ≤ s.cfg.bitCycles ∧
        s.cfg.acceptMatch &&& ~~~s.cfg.acceptMask = 0#14) →
      step s = .refused .configNotWellFormed)

/-- 10_state.md R40, 30_encoding.md R76: with `rst = 0` the step is the one operation the selector word selects, and the selector word's
bits are formed from the registers as R76 lists them. -/
def Obligations.StepRunsSelectedOperation : Prop :=
  ∀ s : State, s.cfg.wellFormed = true → s.input.rst = false →
    step s = exec (decode (.selector (selector s.cfg s.regs))) s ∧
    (selector s.cfg s.regs).extractLsb' 7 3 = s.regs.fsm ∧
    (selector s.cfg s.regs).getLsbD 6 = s.regs.pend ∧
    (selector s.cfg s.regs).getLsbD 5 = decide (s.regs.dcnt = 0) ∧
    (selector s.cfg s.regs).getLsbD 4 = s.regs.s2 ∧
    (selector s.cfg s.regs).getLsbD 3 = s.regs.cmpf ∧
    (selector s.cfg s.regs).getLsbD 2 = decide (if s.regs.fsm = 1#3 then s.regs.cidx = 2#2 else s.regs.cidx = 1#2) ∧
    (selector s.cfg s.regs).getLsbD 1 = decide (s.regs.bcnt = 12#4) ∧
    (selector s.cfg s.regs).getLsbD 0 = decide (s.regs.frame &&& s.cfg.acceptMask = s.cfg.acceptMatch)

/-- 30_encoding.md R77 with opcode_table.json: a selector word belongs to exactly the row of the operation it decodes to. -/
def Obligations.SelectorWordHasExactlyItsRow : Prop :=
  ∀ (w : BitVec 10) (i : Instr), isOperation i = true → ((tableRow i).accepts (.selector w) = true ↔ decodeSelector w = i)

/-- 30_encoding.md R70, R72 and R78 with opcode_table.json: a frame belongs to exactly one class row, its fields are read at the
places the layout gives, and none of its bits is dropped. -/
def Obligations.FrameHasExactlyOneClass : Prop :=
  ∀ (f : BitVec 14) (i : Instr), isOperation i = false →
    ((tableRow i).accepts (.frame14 f) = true ↔ tableRow (decodeFrame f) = tableRow i) ∧
    encode (decodeFrame f) = .frame14 f ∧
    (∀ (s1 s2 tog : Bool) (a : BitVec 5) (c : BitVec 6), f = frameOfFields s1 s2 tog a c ↔
      f.getLsbD 13 = s1 ∧ f.getLsbD 12 = s2 ∧ f.getLsbD 11 = tog ∧ f.extractLsb' 6 5 = a ∧ f.extractLsb' 0 6 = c)

/-- 30_encoding.md R70, R77, R78: decoding an instruction's word gives the instruction back, every field at every value; and a
well-formed instruction (S1 = 1 in a frame) comes back from the bare 16-bit number too (log 5). -/
def Obligations.DecodeOfEncodeIsIdentity : Prop :=
  (∀ i : Instr, decode (encode i) = i) ∧
    ∀ i : Instr, i.wellFormed = true → decodeTableWord 16 (encode i).bits.toNat = some i

/-- Words written out from 30_encoding.md R76, R77 and R70 decode to what they stand for. -/
def Obligations.KnownWordsDecode : Prop :=
  decode (.selector 0b0001000000#10) = .passEnter ∧ decode (.selector 0b0010100100#10) = .passStart ∧
    decode (.selector 0b0100001000#10) = .bitProbe ∧ decode (.selector 0b0110100100#10) = .rchkOne ∧
    decode (.selector 0b1000000001#10) = .frameAccept ∧ decode (.selector 0b1111111111#10) = .illegalState67 ∧
    decode (.frame14 0b11000101111111#14) = .rc5Accept true 5#5 63#6 ∧
    decode (.frame14 0b10000000001000#14) = .rc5RejectS2 true false 0#5 8#6 ∧
    decode (.frame14 0b11100011001001#14) = .rc5RejectT true 3#5 9#6

/-- Log 6 with 10_state.md R40: a word placed as the next one is the one the next step runs. A frame word is placed in VALIDATE. Only a
FRAME_REJECT under a mask that rejects nothing cannot be placed. -/
def Obligations.PlacedWordIsRun : Prop :=
  ∀ s : State, s.cfg.wellFormed = true →
    (∀ sel : BitVec 10,
      (s.cfg.acceptMask = 0#14 → decodeSelector sel ≠ .frameReject) →
        step (s.withFetchWord 16 sel.toNat) = exec (decodeSelector sel) (s.withFetchWord 16 sel.toNat)) ∧
    (∀ f : BitVec 14, f.getLsbD 13 = true →
      step (s.withFetchWord 16 f.toNat) = exec (decodeFrame f) (s.withFetchWord 16 f.toNat))

/-- 42_frame.md R140, R141, 30_encoding.md R73: in VALIDATE the step is the meaning of the assembled frame as a frame word, whatever
its class and whatever the mask. -/
def Obligations.ValidateRunsTheFrameWord : Prop :=
  ∀ s : State, s.cfg.wellFormed = true → s.input.rst = false → s.regs.fsm = 4#3 →
    step s = exec (decodeFrame s.regs.frame) s

/-! ## What each operation does

Each statement gives the whole next state, so also all that stays, and when the selector picks the operation (30_encoding.md R77). -/

/-- 40_edge.md R103, 41_sampling.md R123: IDLE_WAIT and BIT_WAIT write nothing; the background updates still run. -/
def Obligations.WaitingOperationsResult : Prop :=
  ∀ (s : State) (i : Instr), i = .idleWait ∨ i = .bitWait →
    exec i s = .next
      { s with
        regs := { s.regs with
          s1 := s.input.ir, s2 := s.regs.s1, s3 := s.regs.s2
          pend := if s.regs.s3 && !s.regs.s2 then true else s.regs.pend
          tmr := if s.regs.tmr = s.cfg.bitCycles - 1 then 0 else s.regs.tmr + 1
          cmpf := if s.regs.tmr = s.cfg.bitCycles - 1 then true else s.regs.cmpf
          valid := false, kick := false }
        cycle := s.cycle + 1
        stim := s.stim.tail } ∧
    (s.operation = .idleWait ↔ s.regs.fsm = 0#3 ∧ s.regs.pend = false) ∧
    (s.operation = .bitWait ↔ s.regs.fsm = 2#3 ∧ s.regs.cmpf = false)

/-- 40_edge.md R104: PASS_ENTER. -/
def Obligations.PassEnterResult : Prop :=
  ∀ s : State,
    exec .passEnter s = .next
      { s with
        regs := { s.regs with
          s1 := s.input.ir, s2 := s.regs.s1, s3 := s.regs.s2
          pend := if s.regs.s3 && !s.regs.s2 then true else s.regs.pend
          fsm := 1#3
          dcnt := s.cfg.confCycles - 1
          cidx := 0#2
          tmr := if s.regs.tmr = s.cfg.bitCycles - 1 then 0 else s.regs.tmr + 1
          cmpf := if s.regs.tmr = s.cfg.bitCycles - 1 then true else s.regs.cmpf
          valid := false, kick := true }
        cycle := s.cycle + 1
        stim := s.stim.tail } ∧
    (s.operation = .passEnter ↔ s.regs.fsm = 0#3 ∧ s.regs.pend = true)

/-- 40_edge.md R105, 41_sampling.md R126: CONF_DELAY and RCHK_DELAY count the delay down. "`dcnt != 0` here": in every state, each is
selected only when `dcnt` is not 0. -/
def Obligations.DelayOperationsResult : Prop :=
  ∀ (s : State) (i : Instr), i = .confDelay ∨ i = .rchkDelay →
    (s.regs.dcnt ≠ 0 → exec i s = .next
      { s with
        regs := { s.regs with
          s1 := s.input.ir, s2 := s.regs.s1, s3 := s.regs.s2
          pend := if s.regs.s3 && !s.regs.s2 then true else s.regs.pend
          dcnt := s.regs.dcnt - 1
          tmr := if s.regs.tmr = s.cfg.bitCycles - 1 then 0 else s.regs.tmr + 1
          cmpf := if s.regs.tmr = s.cfg.bitCycles - 1 then true else s.regs.cmpf
          valid := false, kick := false }
        cycle := s.cycle + 1
        stim := s.stim.tail }) ∧
    (s.operation = .confDelay ↔ s.regs.fsm = 1#3 ∧ s.regs.dcnt ≠ 0) ∧
    (s.operation = .rchkDelay ↔ s.regs.fsm = 3#3 ∧ s.regs.dcnt ≠ 0)

/-- 40_edge.md R106, 60_exceptions.md R160: CONF_NOISE ends the pass, records the failing read, and changes nothing else. -/
def Obligations.ConfNoiseResult : Prop :=
  ∀ s : State,
    exec .confNoise s = .next
      { s with
        regs := { s.regs with
          s1 := s.input.ir, s2 := s.regs.s1, s3 := s.regs.s2
          pend := false
          fsm := 0#3
          tmr := if s.regs.tmr = s.cfg.bitCycles - 1 then 0 else s.regs.tmr + 1
          cmpf := if s.regs.tmr = s.cfg.bitCycles - 1 then true else s.regs.cmpf
          valid := false, kick := false }
        cycle := s.cycle + 1
        stim := s.stim.tail
        outcomes := s.outcomes ++ [⟨s.cycle, .noise (s.regs.cidx.toNat + 1)⟩] } ∧
    (s.operation = .confNoise ↔ s.regs.fsm = 1#3 ∧ s.regs.dcnt = 0 ∧ s.regs.s2 = true)

/-- 40_edge.md R107, 41_sampling.md R128: CONF_NEXT and RCHK_NEXT go on to the next read. -/
def Obligations.NextReadOperationsResult : Prop :=
  ∀ (s : State) (i : Instr) (index : BitVec 2),
    i = .confNext ∧ index = s.regs.cidx + 1#2 ∨ i = .rchkNext ∧ index = 1#2 →
    exec i s = .next
      { s with
        regs := { s.regs with
          s1 := s.input.ir, s2 := s.regs.s1, s3 := s.regs.s2
          pend := if s.regs.s3 && !s.regs.s2 then true else s.regs.pend
          dcnt := s.cfg.confCycles - 1
          cidx := index
          tmr := if s.regs.tmr = s.cfg.bitCycles - 1 then 0 else s.regs.tmr + 1
          cmpf := if s.regs.tmr = s.cfg.bitCycles - 1 then true else s.regs.cmpf
          valid := false, kick := false }
        cycle := s.cycle + 1
        stim := s.stim.tail } ∧
    (s.operation = .confNext ↔ s.regs.fsm = 1#3 ∧ s.regs.dcnt = 0 ∧ s.regs.s2 = false ∧ s.regs.cidx ≠ 2#2) ∧
    (s.operation = .rchkNext ↔ s.regs.fsm = 3#3 ∧ s.regs.dcnt = 0 ∧ s.regs.s2 = false ∧ s.regs.cidx ≠ 1#2)

/-- 40_edge.md R108: PASS_START; its clears of `tmr` and `cmpf` win over the background updates. -/
def Obligations.PassStartResult : Prop :=
  ∀ s : State,
    exec .passStart s = .next
      { s with
        regs := { s.regs with
          s1 := s.input.ir, s2 := s.regs.s1, s3 := s.regs.s2
          pend := if s.regs.s3 && !s.regs.s2 then true else s.regs.pend
          fsm := 2#3
          tmr := 0
          cmpf := false
          bcnt := 0#4
          frame := 0b00000000000001#14
          valid := false, kick := false }
        cycle := s.cycle + 1
        stim := s.stim.tail } ∧
    (s.operation = .passStart ↔ s.regs.fsm = 1#3 ∧ s.regs.dcnt = 0 ∧ s.regs.s2 = false ∧ s.regs.cidx = 2#2)

/-- 41_sampling.md R120, R124, R127, R129: the three operations that resolve a bit shift it in, count it, and leave for VALIDATE on the
13th. Only BIT_ZERO consumes the compare flag, and a compare event of the same cycle wins over that. -/
def Obligations.BitResolvingOperationsResult : Prop :=
  ∀ (s : State) (i : Instr) (bit : BitVec 14) (consumed : Bool),
    i = .bitZero ∧ bit = 0#14 ∧ consumed = true ∨ i = .rchkZero ∧ bit = 0#14 ∧ consumed = false ∨
      i = .rchkOne ∧ bit = 1#14 ∧ consumed = false →
    exec i s = .next
      { s with
        regs := { s.regs with
          s1 := s.input.ir, s2 := s.regs.s1, s3 := s.regs.s2
          pend := if s.regs.s3 && !s.regs.s2 then true else s.regs.pend
          fsm := if s.regs.bcnt = 12#4 then 4#3 else 2#3
          tmr := if s.regs.tmr = s.cfg.bitCycles - 1 then 0 else s.regs.tmr + 1
          cmpf := if s.regs.tmr = s.cfg.bitCycles - 1 then true else if consumed then false else s.regs.cmpf
          bcnt := s.regs.bcnt + 1#4
          frame := s.regs.frame <<< 1 ||| bit
          valid := false, kick := false }
        cycle := s.cycle + 1
        stim := s.stim.tail } ∧
    (s.operation = .bitZero ↔ s.regs.fsm = 2#3 ∧ s.regs.cmpf = true ∧ s.regs.s2 = true) ∧
    (s.operation = .rchkZero ↔ s.regs.fsm = 3#3 ∧ s.regs.dcnt = 0 ∧ s.regs.s2 = true) ∧
    (s.operation = .rchkOne ↔ s.regs.fsm = 3#3 ∧ s.regs.dcnt = 0 ∧ s.regs.s2 = false ∧ s.regs.cidx = 1#2)

/-- 41_sampling.md R125: BIT_PROBE. -/
def Obligations.BitProbeResult : Prop :=
  ∀ s : State,
    exec .bitProbe s = .next
      { s with
        regs := { s.regs with
          s1 := s.input.ir, s2 := s.regs.s1, s3 := s.regs.s2
          pend := if s.regs.s3 && !s.regs.s2 then true else s.regs.pend
          fsm := 3#3
          dcnt := s.cfg.confCycles - 1
          cidx := 0#2
          tmr := if s.regs.tmr = s.cfg.bitCycles - 1 then 0 else s.regs.tmr + 1
          cmpf := if s.regs.tmr = s.cfg.bitCycles - 1 then true else false
          valid := false, kick := false }
        cycle := s.cycle + 1
        stim := s.stim.tail } ∧
    (s.operation = .bitProbe ↔ s.regs.fsm = 2#3 ∧ s.regs.cmpf = true ∧ s.regs.s2 = false)

/-- 42_frame.md R140, 30_encoding.md R72: FRAME_ACCEPT. -/
def Obligations.FrameAcceptResult : Prop :=
  ∀ s : State,
    exec .frameAccept s = .next
      { s with
        regs := { s.regs with
          s1 := s.input.ir, s2 := s.regs.s1, s3 := s.regs.s2
          pend := false
          fsm := 0#3
          tmr := if s.regs.tmr = s.cfg.bitCycles - 1 then 0 else s.regs.tmr + 1
          cmpf := if s.regs.tmr = s.cfg.bitCycles - 1 then true else s.regs.cmpf
          outCmd := s.regs.frame.extractLsb' 0 6
          outAddr := s.regs.frame.extractLsb' 6 5
          outTog := s.regs.frame.getLsbD 11
          outFrame := s.regs.frame
          valid := true, kick := false }
        cycle := s.cycle + 1
        stim := s.stim.tail
        outcomes := s.outcomes ++ [⟨s.cycle, .accept s.regs.frame⟩] } ∧
    (s.operation = .frameAccept ↔ s.regs.fsm = 4#3 ∧ s.regs.frame &&& s.cfg.acceptMask = s.cfg.acceptMatch)

/-- 42_frame.md R141: FRAME_REJECT changes no output and gives no strobe. -/
def Obligations.FrameRejectResult : Prop :=
  ∀ s : State,
    exec .frameReject s = .next
      { s with
        regs := { s.regs with
          s1 := s.input.ir, s2 := s.regs.s1, s3 := s.regs.s2
          pend := false
          fsm := 0#3
          tmr := if s.regs.tmr = s.cfg.bitCycles - 1 then 0 else s.regs.tmr + 1
          cmpf := if s.regs.tmr = s.cfg.bitCycles - 1 then true else s.regs.cmpf
          valid := false, kick := false }
        cycle := s.cycle + 1
        stim := s.stim.tail
        outcomes := s.outcomes ++ [⟨s.cycle, .reject s.regs.frame⟩] } ∧
    (s.operation = .frameReject ↔ s.regs.fsm = 4#3 ∧ s.regs.frame &&& s.cfg.acceptMask ≠ s.cfg.acceptMatch)

/-- 42_frame.md R142: both rows of ILLEGAL_STATE recover to IDLE, clear `pend` and record the code. -/
def Obligations.IllegalStateResult : Prop :=
  ∀ (s : State) (i : Instr), i = .illegalState5 ∨ i = .illegalState67 →
    exec i s = .next
      { s with
        regs := { s.regs with
          s1 := s.input.ir, s2 := s.regs.s1, s3 := s.regs.s2
          pend := false
          fsm := 0#3
          tmr := if s.regs.tmr = s.cfg.bitCycles - 1 then 0 else s.regs.tmr + 1
          cmpf := if s.regs.tmr = s.cfg.bitCycles - 1 then true else s.regs.cmpf
          valid := false, kick := false }
        cycle := s.cycle + 1
        stim := s.stim.tail
        outcomes := s.outcomes ++ [⟨s.cycle, .illegal s.regs.fsm⟩] } ∧
    (s.operation = .illegalState5 ↔ s.regs.fsm = 5#3) ∧
    (s.operation = .illegalState67 ↔ s.regs.fsm = 6#3 ∨ s.regs.fsm = 7#3)

/-- 42_frame.md R140, R141 and 30_encoding.md R73 for a frame word of any class (log 4): the VALIDATE cycle on that frame, accepted
exactly when the masked frame equals the match value. -/
def Obligations.FrameWordsResult : Prop :=
  ∀ (s : State) (s1 tog : Bool) (a : BitVec 5) (c : BitVec 6) (i : Instr) (f : BitVec 14),
    i = .rc5Accept s1 a c ∧ f = frameOfFields s1 true false a c ∨
      i = .rc5RejectS2 s1 tog a c ∧ f = frameOfFields s1 false tog a c ∨
      i = .rc5RejectT s1 a c ∧ f = frameOfFields s1 true true a c →
    ∃ t, exec i s = .next t ∧ t.cfg = s.cfg ∧ t.cycle = s.cycle + 1 ∧ t.stim = s.stim.tail ∧
      (f &&& s.cfg.acceptMask = s.cfg.acceptMatch →
        t.outcomes = s.outcomes ++ [⟨s.cycle, .accept f⟩] ∧
        t.regs = { s.regs with
          s1 := s.input.ir, s2 := s.regs.s1, s3 := s.regs.s2
          pend := false
          fsm := 0#3
          tmr := if s.regs.tmr = s.cfg.bitCycles - 1 then 0 else s.regs.tmr + 1
          cmpf := if s.regs.tmr = s.cfg.bitCycles - 1 then true else s.regs.cmpf
          frame := f
          outCmd := c
          outAddr := a
          outTog := f.getLsbD 11
          outFrame := f
          valid := true, kick := false }) ∧
      (f &&& s.cfg.acceptMask ≠ s.cfg.acceptMatch →
        t.outcomes = s.outcomes ++ [⟨s.cycle, .reject f⟩] ∧
        t.regs = { s.regs with
          s1 := s.input.ir, s2 := s.regs.s1, s3 := s.regs.s2
          pend := false
          fsm := 0#3
          tmr := if s.regs.tmr = s.cfg.bitCycles - 1 then 0 else s.regs.tmr + 1
          cmpf := if s.regs.tmr = s.cfg.bitCycles - 1 then true else s.regs.cmpf
          frame := f
          valid := false, kick := false })

/-! ## Rules over every operation -/

/-- 40_edge.md R100, R102, 41_sampling.md R121, R122, 42_frame.md R143: the background updates run whichever operation does, with the
priorities of 60_exceptions.md R165. -/
def Obligations.BackgroundUpdatesEveryCycle : Prop :=
  ∀ (i : Instr) (s : State), isOperation i = true → ∃ t, exec i s = .next t ∧
    t.regs.s1 = s.input.ir ∧ t.regs.s2 = s.regs.s1 ∧ t.regs.s3 = s.regs.s2 ∧
    t.regs.pend = (if i = .confNoise ∨ i = .frameAccept ∨ i = .frameReject ∨ i = .illegalState5 ∨ i = .illegalState67 then false
      else if s.regs.s3 = true ∧ s.regs.s2 = false then true else s.regs.pend) ∧
    t.regs.tmr = (if i = .passStart then 0
      else if s.regs.tmr = s.cfg.bitCycles - 1 then 0 else s.regs.tmr + 1) ∧
    t.regs.cmpf = (if i = .passStart then false
      else if s.regs.tmr = s.cfg.bitCycles - 1 then true
      else if i = .bitZero ∨ i = .bitProbe then false else s.regs.cmpf) ∧
    t.regs.valid = decide (i = .frameAccept) ∧ t.regs.kick = decide (i = .passEnter)

/-- 10_state.md R41: the complete write map. Where a column shows `-`, the operation holds the register, or the background update decides:
`tmr`, `cmpf` and `pend` take its value, and the strobes are written 0. -/
def Obligations.WriteMapIsComplete : Prop :=
  ∀ (i : Instr) (s : State), isOperation i = true → ∃ t, exec i s = .next t ∧
    (i ∉ [.passEnter, .confNoise, .passStart, .bitZero, .bitProbe, .rchkZero, .rchkOne, .frameAccept, .frameReject,
        .illegalState5, .illegalState67] → t.regs.fsm = s.regs.fsm) ∧
    (i ∉ [.passEnter, .confDelay, .confNext, .bitProbe, .rchkDelay, .rchkNext] → t.regs.dcnt = s.regs.dcnt) ∧
    (i ∉ [.passEnter, .confNext, .bitProbe, .rchkNext] → t.regs.cidx = s.regs.cidx) ∧
    (i ∉ [.passStart, .bitZero, .rchkZero, .rchkOne] → t.regs.bcnt = s.regs.bcnt ∧ t.regs.frame = s.regs.frame) ∧
    (i ≠ .frameAccept → t.regs.outCmd = s.regs.outCmd ∧ t.regs.outAddr = s.regs.outAddr ∧
      t.regs.outTog = s.regs.outTog ∧ t.regs.outFrame = s.regs.outFrame) ∧
    (i = .passStart → t.regs.tmr = 0 ∧ t.regs.cmpf = false ∧ t.regs.bcnt = 0#4 ∧ t.regs.frame = 1#14) ∧
    (i ≠ .passStart → t.regs.tmr = if s.regs.tmr = s.cfg.bitCycles - 1 then 0 else s.regs.tmr + 1) ∧
    (i ∈ [.bitZero, .bitProbe] → t.regs.cmpf = if s.regs.tmr = s.cfg.bitCycles - 1 then true else false) ∧
    (i ∉ [.passStart, .bitZero, .bitProbe] →
      t.regs.cmpf = if s.regs.tmr = s.cfg.bitCycles - 1 then true else s.regs.cmpf) ∧
    (i = .frameAccept → t.regs.valid = true) ∧ (i ≠ .frameAccept → t.regs.valid = false) ∧
    (i = .passEnter → t.regs.kick = true) ∧ (i ≠ .passEnter → t.regs.kick = false) ∧
    (i ∈ [.confNoise, .frameAccept, .frameReject, .illegalState5, .illegalState67] → t.regs.pend = false) ∧
    (i ∉ [.confNoise, .frameAccept, .frameReject, .illegalState5, .illegalState67] →
      t.regs.pend = if s.regs.s3 = true ∧ s.regs.s2 = false then true else s.regs.pend)

/-- 60_exceptions.md R160: which operation records which outcome, in the cycle it runs, with the code and the value of the table; no
other operation, and no reset, records one. "The block's behaviour never depends on it": the same step from another log appends
the same entries and does everything else alike. -/
def Obligations.OutcomeLogRecordsPassEnds : Prop :=
  (∀ s t : State, step s = .next t →
    t.outcomes = s.outcomes ++
      (if s.input.rst = true then []
        else if s.operation = .frameAccept then [⟨s.cycle, .accept s.regs.frame⟩]
        else if s.operation = .confNoise then [⟨s.cycle, .noise (s.regs.cidx.toNat + 1)⟩]
        else if s.operation = .frameReject then [⟨s.cycle, .reject s.regs.frame⟩]
        else if s.operation = .illegalState5 ∨ s.operation = .illegalState67 then [⟨s.cycle, .illegal s.regs.fsm⟩]
        else [])) ∧
  (∀ (f : BitVec 14) (n : Nat) (code : BitVec 3),
    (PassOutcome.accept f).code = 0 ∧ (PassOutcome.accept f).value = f.toNat ∧
    (PassOutcome.noise n).code = 1 ∧ (PassOutcome.noise n).value = n ∧
    (PassOutcome.reject f).code = 2 ∧ (PassOutcome.reject f).value = f.toNat ∧
    (PassOutcome.illegal code).code = 3 ∧ (PassOutcome.illegal code).value = code.toNat) ∧
  (∀ (s t : State) (log : List LogEntry), step s = .next t →
    ∃ entries, t.outcomes = s.outcomes ++ entries ∧
      step { s with outcomes := log } = .next { t with outcomes := log ++ entries })

/-- 00_scope.md R5, 10_state.md R37: no step changes the configuration. Every step, a reset step too, is one cycle: the cycle number goes
up by one (00_scope.md R9, 10_state.md R40; over a reset by the model's reading, log 8) and the environment's stream moves on by one
(its list in State is the model's choice, log 1). -/
def Obligations.ConfigurationNeverChanges : Prop :=
  ∀ s t : State, step s = .next t → t.cfg = s.cfg ∧ t.cycle = s.cycle + 1 ∧ ∀ k, t.inputAt k = s.inputAt (k + 1)

/-- 20_memory.md R54, R56, R60: FRAME_ACCEPT writes the strobe and the four holding registers at one edge, to the fields of the frame
register; the strobe is given by nothing else; and in every other cycle without reset the holding registers keep their values. -/
def Obligations.OutputsChangeOnlyWithStrobe : Prop :=
  ∀ s t : State, s.input.rst = false → step s = .next t →
    (s.operation = .frameAccept → t.regs.valid = true ∧ t.regs.outFrame = s.regs.frame ∧
      t.regs.outCmd = s.regs.frame.extractLsb' 0 6 ∧ t.regs.outAddr = s.regs.frame.extractLsb' 6 5 ∧
      t.regs.outTog = s.regs.frame.getLsbD 11) ∧
    (t.regs.valid = true → s.operation = .frameAccept) ∧
    (s.operation ≠ .frameAccept → t.regs.outFrame = s.regs.outFrame ∧ t.regs.outCmd = s.regs.outCmd ∧
      t.regs.outAddr = s.regs.outAddr ∧ t.regs.outTog = s.regs.outTog)

/-- 60_exceptions.md R167: "No operation outside IDLE reads `pend`": whatever `pend` holds, a step of a running pass is the same but
for `pend` itself, and the operation that ends the pass clears it either way. -/
def Obligations.PendIsNotReadDuringPass : Prop :=
  ∀ (s : State) (p : Bool), s.cfg.wellFormed = true → s.regs.fsm ≠ 0#3 →
    ∃ t q, step s = .next t ∧
      step { s with regs := { s.regs with pend := p } } = .next { t with regs := { t.regs with pend := q } } ∧
      (endsPass s.operation = true → t.regs.pend = false ∧ q = false)

/-- 10_state.md R38 items 2 to 5: hidden registers are not observable. Machines that differ only in registers their state does not
read stay so under every step, with equal ports and equal outcomes. -/
def Obligations.HiddenRegistersStayUnobservable : Prop :=
  ∀ s t : State, Indistinguishable s t →
    (step s = .refused .configNotWellFormed ∧ step t = .refused .configNotWellFormed) ∨
    ∃ s' t', step s = .next s' ∧ step t = .next t' ∧ Indistinguishable s' t' ∧ ports s'.regs = ports t'.regs

/-! ## The invariant and what follows from it -/

/-- The invariant holds after reset, for every well-formed configuration and every stimulus, the model's reset state among them (its
configuration and stimulus are the model's choice, logs 1 and 2). -/
def Obligations.InvariantHoldsAtReset : Prop :=
  (∀ (c : Config) (stim : List Input), c.wellFormed = true → Inv (.resetWith c stim)) ∧ Inv State.reset

/-- 00_scope.md R7, 10_state.md R24 to R29, 41_sampling.md R130: every step keeps the counters' ranges, the legal state codes and the
shape of a running pass, whatever the line and the reset do. -/
def Obligations.EveryStepKeepsInvariant : Prop :=
  ∀ s t : State, Inv s → step s = .next t → Inv t

/-- 00_scope.md R7: no step takes a counter out of its range, and in its range each counter fits the width the parameters give, so the
widths are not observable. -/
def Obligations.CountersFitTheirWidths : Prop :=
  ∀ s t : State, Inv s → step s = .next t →
    t.regs.dcnt ≤ t.cfg.confCycles - 1 ∧ t.regs.tmr ≤ t.cfg.bitCycles - 1 ∧ t.regs.cidx.toNat ≤ 2 ∧ t.regs.bcnt.toNat ≤ 13 ∧
    t.regs.dcnt < 2 ^ max 1 (Nat.clog 2 t.cfg.confCycles) ∧ t.regs.tmr < 2 ^ max 1 (Nat.clog 2 t.cfg.bitCycles)

/-- 41_sampling.md R122: the compare flag's next value, and "no event of a pass is ever merged". A compare event of WAIT_BIT finds the
flag clear and comes in a cycle that does not consume it; RECHECK is over before the next compare event falls due, and no event
waits there; and VALIDATE, in whose cycle a compare event can fall, has none pending. -/
def Obligations.NoCompareEventIsLost : Prop :=
  ∀ s : State, Inv s →
    (s.input.rst = false → ∃ t, step s = .next t ∧
      t.regs.cmpf = (if s.operation = .passStart then false
        else if s.regs.tmr = s.cfg.bitCycles - 1 then true
        else if s.operation = .bitZero ∨ s.operation = .bitProbe then false else s.regs.cmpf)) ∧
    (s.regs.fsm = 2#3 → s.regs.tmr = s.cfg.bitCycles - 1 →
      s.regs.cmpf = false ∧ s.operation ≠ .bitZero ∧ s.operation ≠ .bitProbe) ∧
    (s.regs.fsm = 3#3 → s.regs.tmr < s.cfg.bitCycles - 1 ∧ s.regs.cmpf = false) ∧
    (s.regs.fsm = 4#3 → s.regs.cmpf = false)

/-- 10_state.md R34, R35: each strobe is 1 in exactly the cycle after its operation, at its port; with `frame_valid` the outputs hold the
new frame. So a strobe lasts one cycle. And 20_memory.md R50: in every
state `busy` is `fsm != IDLE`. -/
def Obligations.StrobesLastOneCycle : Prop :=
  (∀ s : State, (ports s.regs).busy = true ↔ s.regs.fsm ≠ 0#3) ∧
  ∀ s t : State, step s = .next t →
    ((ports t.regs).frameValid = true ↔ s.input.rst = false ∧ s.operation = .frameAccept) ∧
    ((ports t.regs).wdtKick = true ↔ s.input.rst = false ∧ s.operation = .passEnter) ∧
    ((ports t.regs).frameValid = true → (ports t.regs).frame = s.regs.frame ∧
      (ports t.regs).cmd = s.regs.frame.extractLsb' 0 6 ∧ (ports t.regs).addr = s.regs.frame.extractLsb' 6 5 ∧
      (ports t.regs).toggle = s.regs.frame.getLsbD 11) ∧
    ∀ u : State, Inv s → step t = .next u →
      (t.regs.valid = true → u.regs.valid = false) ∧ (t.regs.kick = true → u.regs.kick = false)

/-- 70_reset_and_hazards.md R189: under the default mask `toggle` is 0 in every strobe cycle and after reset, and between strobes it
stays so. -/
def Obligations.ToggleStaysZeroUnderDefaultMask : Prop :=
  ∀ s t : State, s.cfg.acceptMask = 0x1800#14 → s.cfg.acceptMatch = 0x1000#14 → step s = .next t →
    ((ports t.regs).frameValid = true → (ports t.regs).toggle = false) ∧
    (s.input.rst = true → (ports t.regs).toggle = false) ∧
    ((ports s.regs).toggle = false → (ports t.regs).toggle = false)

/-- 30_encoding.md R73, R78: the acceptance test, and what it is under the default mask: bit 12 = 1 and bit 11 = 0, the frames of class
RC5_ACCEPT and no others. -/
def Obligations.DefaultMaskAcceptsExactlyClassAccept : Prop :=
  ∀ (c : Config) (f : BitVec 14),
    (accept c f = true ↔ f &&& c.acceptMask = c.acceptMatch) ∧
    (c.acceptMask = 0x1800#14 → c.acceptMatch = 0x1000#14 →
      (accept c f = true ↔ f.getLsbD 12 = true ∧ f.getLsbD 11 = false) ∧
      (accept c f = true ↔ ∃ s1 a cmd, decodeFrame f = .rc5Accept s1 a cmd))

/-- 00_scope.md R5, R6: a given parameter is kept and one not given takes its default, `CONF_CYCLES` from whatever `BIT_CYCLES` the
instance has; the defaults meet all four conditions whenever `BIT_CYCLES >= 16`, given or not. The rounding to the nearest is exact
but for the tie, which is a free value (log 7). -/
def Obligations.DefaultConfigIsWellFormedAndAligned : Prop :=
  (∀ (hz : PNat) (given : Config.Given),
    (Config.elaborated hz given).clkHz = hz ∧
    (∀ b, given.bitCycles = some b → (Config.elaborated hz given).bitCycles = b) ∧
    (given.bitCycles = none →
      2 * 1000000 * (Config.elaborated hz given).bitCycles ≤ 2 * 1778 * hz.val + 1000000 ∧
      2 * 1778 * hz.val ≤ 2 * 1000000 * (Config.elaborated hz given).bitCycles + 1000000) ∧
    (∀ c, given.confCycles = some c → (Config.elaborated hz given).confCycles = c) ∧
    (given.confCycles = none → (Config.elaborated hz given).confCycles = (Config.elaborated hz given).bitCycles / 16) ∧
    (∀ m, given.acceptMask = some m → (Config.elaborated hz given).acceptMask = m) ∧
    (given.acceptMask = none → (Config.elaborated hz given).acceptMask = 0x1800#14) ∧
    (∀ m, given.acceptMatch = some m → (Config.elaborated hz given).acceptMatch = m) ∧
    (given.acceptMatch = none → (Config.elaborated hz given).acceptMatch = 0x1000#14)) ∧
  (∀ (hz : PNat) (bitCycles : Option Nat), 16 ≤ (Config.elaborated hz { bitCycles := bitCycles }).bitCycles →
    (Config.elaborated hz { bitCycles := bitCycles }).wellFormed = true ∧
    (Config.elaborated hz { bitCycles := bitCycles }).aligned = true)

/-! ## The input and the stimulus -/

/-- 40_edge.md R100, 70_reset_and_hazards.md R190: the line follows the input two cycles later, whatever operations run. -/
def Obligations.LineFollowsInputTwoCyclesLater : Prop :=
  ∀ (s : State) (k : Nat), s.cfg.wellFormed = true → s.NoReset (k + 2) →
    ∃ t, cycles (k + 2) s = .next t ∧ line t.regs = (s.inputAt k).ir

/-- 40_edge.md R101, R109, 70_reset_and_hazards.md R190: an idle block whose line has been high starts a pass three cycles after the
first low input cycle, and not before. -/
def Obligations.PassStartsThreeCyclesAfterFirstLow : Prop :=
  ∀ s : State, s.cfg.wellFormed = true → s.NoReset 3 → s.regs.fsm = 0#3 → s.regs.pend = false →
    s.regs.s1 = true → s.regs.s2 = true → s.regs.s3 = true → (s.inputAt 0).ir = false →
    ∃ t1 t2 t3, cycles 1 s = .next t1 ∧ cycles 2 s = .next t2 ∧ cycles 3 s = .next t3 ∧
      s.operation = .idleWait ∧ t1.operation = .idleWait ∧ t2.operation = .idleWait ∧ t3.operation = .passEnter

/-- 40_edge.md R109: a low pulse of `n` cycles on an idle block's line. It starts a pass exactly when it lasts at least
`3 * CONF_CYCLES + 2` cycles, PASS_START running `3 * CONF_CYCLES + 3` cycles after its first; a shorter one is noise at the first of the
three reads it does not reach, and it reaches the first exactly when it lasts at least `CONF_CYCLES + 2`. -/
def Obligations.LowPulseIsConfirmedByItsLength : Prop :=
  ∀ (s : State) (n : Nat), s.cfg.wellFormed = true → s.NoReset (3 * s.cfg.confCycles + 4) → s.regs.fsm = 0#3 →
    s.regs.pend = false → s.regs.s1 = true → s.regs.s2 = true → s.regs.s3 = true → 1 ≤ n →
    (∀ k, k < n → (s.inputAt k).ir = false) → (∀ k, n ≤ k → k ≤ 3 * s.cfg.confCycles + 1 → (s.inputAt k).ir = true) →
    (3 * s.cfg.confCycles + 2 ≤ n →
      ∃ u t, cycles (3 * s.cfg.confCycles + 3) s = .next u ∧ u.operation = .passStart ∧ step u = .next t ∧
        t.regs.fsm = 2#3 ∧ t.regs.tmr = 0 ∧ t.outcomes = s.outcomes) ∧
    (∀ k, 1 ≤ k → k ≤ 3 → n < k * s.cfg.confCycles + 2 → (k = 1 ∨ (k - 1) * s.cfg.confCycles + 2 ≤ n) →
      ∃ u t, cycles (k * s.cfg.confCycles + 3) s = .next u ∧ u.operation = .confNoise ∧ step u = .next t ∧
        t.regs.fsm = 0#3 ∧ t.regs.pend = false ∧
        t.outcomes = s.outcomes ++ [⟨s.cycle + k * s.cfg.confCycles + 3, .noise k⟩])

/-- 30_encoding.md R81: the run-length list unrolled is the level sequence, the reset set holds exactly the cycles with `rst = 1` and is
empty unless the program contains `RST`, `RST n` contributes `n` cycles with level 1, and two stimuli with the same list and the same
reset set are the same. -/
def Obligations.StimulusEncodingIsFaithful : Prop :=
  (∀ x : List Input, unrollRuns (encodeStimulus x).runs = x.map (·.ir)) ∧
    (∀ (x : List Input) (k : Nat), k ∈ (encodeStimulus x).resets ↔ ∃ i, x[k]? = some i ∧ i.rst = true) ∧
    (∀ (c : Config) (program : List StimulusItem) (x : List Input), stimulusInputs c program = some x →
      (∀ n, .reset n ∉ program) → (encodeStimulus x).resets = []) ∧
    (∀ (c : Config) (n : Nat), (StimulusItem.reset n).inputs c = some (List.replicate n ⟨true, true⟩)) ∧
    ∀ x y : List Input, encodeStimulus x = encodeStimulus y → x = y

/-- 30_encoding.md R71, R80: the waveform of a frame, cycle by cycle: in each cell the bit's own level, then its inverse. -/
def Obligations.FrameWaveformIsManchester : Prop :=
  ∀ (c : Config) (f : BitVec 14) (k j : Nat), c.bitCycles % 2 = 0 → k < 14 → j < c.bitCycles →
    (frameInputs c f).length = 14 * c.bitCycles ∧
    (frameInputs c f)[k * c.bitCycles + j]? =
      some ⟨if j < c.bitCycles / 2 then f.getLsbD (13 - k) else !f.getLsbD (13 - k), false⟩

/-! ## Whole passes -/

/-- 40_edge.md R109, 60_exceptions.md R161: from PASS_ENTER (this cycle) the three reads see the line `CONF_CYCLES`, `2 * CONF_CYCLES` and
`3 * CONF_CYCLES` cycles later. The first high one ends the pass as noise with its index and no output changed; three low ones
start the bit timer. -/
def Obligations.ConfirmationDecidesAtThreeReads : Prop :=
  ∀ s : State, s.cfg.wellFormed = true → s.regs.fsm = 0#3 → s.regs.pend = true → s.NoReset (3 * s.cfg.confCycles + 1) →
    (∀ k, 1 ≤ k → k ≤ 3 → s.lineAt (k * s.cfg.confCycles) = true →
      (∀ j, 1 ≤ j → j < k → s.lineAt (j * s.cfg.confCycles) = false) →
      ∃ t, cycles (k * s.cfg.confCycles + 1) s = .next t ∧ t.regs.fsm = 0#3 ∧ t.regs.pend = false ∧
        t.outcomes = s.outcomes ++ [⟨s.cycle + k * s.cfg.confCycles, .noise k⟩] ∧
        ports t.regs = { ports s.regs with frameValid := false, busy := false, wdtKick := false }) ∧
    ((∀ j, 1 ≤ j → j ≤ 3 → s.lineAt (j * s.cfg.confCycles) = false) →
      ∃ t, cycles (3 * s.cfg.confCycles + 1) s = .next t ∧ t.regs.fsm = 2#3 ∧ t.regs.tmr = 0 ∧ t.regs.cmpf = false ∧
        t.regs.frame = 1#14 ∧ t.regs.bcnt = 0#4 ∧ t.regs.pend = true ∧ t.outcomes = s.outcomes)

/-- 41_sampling.md R130, R131: a bit's first read comes when the timer has run out, its re-checks `CONF_CYCLES` and `2 * CONF_CYCLES`
later, each made only if the one before was low; it is 1 exactly when all three are low. Nothing else of the line matters. -/
def Obligations.BitIsResolvedFromItsThreeReads : Prop :=
  ∀ s : State, s.cfg.wellFormed = true → s.regs.fsm = 2#3 → s.regs.cmpf = false → s.regs.tmr < s.cfg.bitCycles →
    s.NoReset (s.cfg.bitCycles - s.regs.tmr + 2 * s.cfg.confCycles + 1) →
    ∃ t, cycles (s.cfg.bitCycles - s.regs.tmr + s.resolveDelayAt (s.cfg.bitCycles - s.regs.tmr) + 1) s = .next t ∧
      t.regs.frame = s.regs.frame <<< 1 |||
        (if s.bitReadAt (s.cfg.bitCycles - s.regs.tmr) = true then 1#14 else 0#14) ∧
      t.regs.bcnt = s.regs.bcnt + 1#4 ∧ t.regs.fsm = (if s.regs.bcnt = 12#4 then 4#3 else 2#3) ∧
      t.regs.cmpf = false ∧ t.regs.tmr = s.resolveDelayAt (s.cfg.bitCycles - s.regs.tmr) + 1 ∧
      t.outcomes = s.outcomes ∧ t.regs.outFrame = s.regs.outFrame ∧ t.regs.outCmd = s.regs.outCmd ∧
      t.regs.outAddr = s.regs.outAddr ∧ t.regs.outTog = s.regs.outTog

/-- 42_frame.md R144, 70_reset_and_hazards.md R191: the result of a pass whose bit timer starts now is the frame of its 13 bits, each
read from its own three read points; the pass ends in the cycle R191 gives, accepted exactly when `Accept` holds. -/
def Obligations.PassAssemblesFrameFromReadPoints : Prop :=
  ∀ s : State, s.cfg.wellFormed = true → s.regs.fsm = 2#3 → s.regs.cmpf = false → s.regs.tmr = 0 → s.regs.bcnt = 0#4 →
    s.regs.frame = 1#14 → s.NoReset (13 * s.cfg.bitCycles + 2 * s.cfg.confCycles + 2) →
    ∃ t, cycles (13 * s.cfg.bitCycles + s.resolveDelayAt (13 * s.cfg.bitCycles) + 2) s = .next t ∧
      t.regs.fsm = 0#3 ∧ t.regs.pend = false ∧
      (accept s.cfg (s.assembledFrame 13) = true →
        t.outcomes = s.outcomes ++ [⟨s.cycle + 13 * s.cfg.bitCycles + s.resolveDelayAt (13 * s.cfg.bitCycles) + 1,
          .accept (s.assembledFrame 13)⟩] ∧
        ports t.regs =
          { frameValid := true, cmd := commandField (s.assembledFrame 13), addr := addressField (s.assembledFrame 13),
            toggle := toggleField (s.assembledFrame 13), frame := s.assembledFrame 13, busy := false, wdtKick := false }) ∧
      (accept s.cfg (s.assembledFrame 13) = false →
        t.outcomes = s.outcomes ++ [⟨s.cycle + 13 * s.cfg.bitCycles + s.resolveDelayAt (13 * s.cfg.bitCycles) + 1,
          .reject (s.assembledFrame 13)⟩] ∧
        ports t.regs = { ports s.regs with frameValid := false, busy := false, wdtKick := false })

/-- 70_reset_and_hazards.md R185: a line that stays high after S1 gives the frame 0x2000, a line that stays low 0x3FFF, and the default
mask rejects both. -/
def Obligations.DeadLinesGiveRejectedFrames : Prop :=
  ∀ s : State, s.cfg.wellFormed = true → s.cfg.acceptMask = 0x1800#14 → s.cfg.acceptMatch = 0x1000#14 →
    s.regs.fsm = 2#3 → s.regs.cmpf = false → s.regs.tmr = 0 → s.regs.bcnt = 0#4 → s.regs.frame = 1#14 →
    s.NoReset (13 * s.cfg.bitCycles + 2 * s.cfg.confCycles + 2) →
    ((∀ k, s.cfg.bitCycles ≤ k → k ≤ 13 * s.cfg.bitCycles → s.lineAt k = true) →
      ∃ t, cycles (13 * s.cfg.bitCycles + 2) s = .next t ∧ t.regs.fsm = 0#3 ∧ t.regs.valid = false ∧
        t.outcomes = s.outcomes ++ [⟨s.cycle + 13 * s.cfg.bitCycles + 1, .reject 0x2000#14⟩]) ∧
    ((∀ k, s.cfg.bitCycles ≤ k → k ≤ 13 * s.cfg.bitCycles + 2 * s.cfg.confCycles → s.lineAt k = false) →
      ∃ t, cycles (13 * s.cfg.bitCycles + 2 * s.cfg.confCycles + 2) s = .next t ∧ t.regs.fsm = 0#3 ∧ t.regs.valid = false ∧
        t.outcomes = s.outcomes ++
          [⟨s.cycle + 13 * s.cfg.bitCycles + 2 * s.cfg.confCycles + 1, .reject 0x3FFF#14⟩])

/-- 42_frame.md R145: frame correctness. An idle block on a high line, sent a frame with exact timing under the alignment condition,
reads every bit as sent, and in the cycle the rule gives presents the fields of an accepted frame, or has rejected the frame with
no output changed. -/
def Obligations.SentFrameIsDecodedExactly : Prop :=
  ∀ (s : State) (s2 tog : Bool) (a : BitVec 5) (c : BitVec 6),
    s.cfg.wellFormed = true → s.cfg.aligned = true → s.cfg.bitCycles % 2 = 0 →
    s.regs.fsm = 0#3 → s.regs.pend = false → s.regs.s1 = true → s.regs.s2 = true → s.regs.s3 = true →
    (∀ k i, (frameInputs s.cfg (frameOfFields true s2 tog a c))[k]? = some i → s.inputAt k = i) →
    s.NoReset (14 * s.cfg.bitCycles + 3) →
    ∃ t, cycles (13 * s.cfg.bitCycles + s.cfg.bitCycles / 2 +
        (if c.getLsbD 0 = true then 5 * s.cfg.confCycles else 3 * s.cfg.confCycles) + 6) s = .next t ∧
      (accept s.cfg (frameOfFields true s2 tog a c) = true →
        ports t.regs = { frameValid := true, cmd := c, addr := a, toggle := tog, frame := frameOfFields true s2 tog a c,
                         busy := false, wdtKick := false } ∧
        t.outcomes = s.outcomes ++ [⟨t.cycle - 1, .accept (frameOfFields true s2 tog a c)⟩]) ∧
      (accept s.cfg (frameOfFields true s2 tog a c) = false →
        ports t.regs = { ports s.regs with frameValid := false, busy := false, wdtKick := false } ∧
        t.outcomes = s.outcomes ++ [⟨t.cycle - 1, .reject (frameOfFields true s2 tog a c)⟩])

/-- 60_exceptions.md R167: "A pass always ends", within the cycles the rule gives after entry, whatever the line does, and it leaves
the trigger armed. -/
def Obligations.PassAlwaysEnds : Prop :=
  ∀ s : State, Inv s → s.regs.fsm ≠ 0#3 → s.NoReset (13 * s.cfg.bitCycles + 5 * s.cfg.confCycles + 2) →
    ∃ n t, n ≤ 13 * s.cfg.bitCycles + 5 * s.cfg.confCycles + 2 ∧ cycles n s = .next t ∧
      t.regs.fsm = 0#3 ∧ t.regs.pend = false ∧ s.outcomes.length + 1 = t.outcomes.length

/-- 20_memory.md R57, 70_reset_and_hazards.md R183, R186: after a strobe the next comes no earlier than `13 * BIT_CYCLES + 3 * CONF_CYCLES
+ 4` cycles later, and after reset the first no earlier than cycle `13 * BIT_CYCLES + 3 * CONF_CYCLES + 6`, whatever the environment
does. -/
def Obligations.StrobesKeepTheirDistance : Prop :=
  (∀ (s t : State) (n : Nat), Inv s → s.regs.valid = true → 1 ≤ n →
    n < 13 * s.cfg.bitCycles + 3 * s.cfg.confCycles + 4 → cycles n s = .next t → t.regs.valid = false) ∧
  (∀ (c : Config) (stim : List Input) (t : State) (n : Nat), c.wellFormed = true →
    n < 13 * c.bitCycles + 3 * c.confCycles + 6 → cycles n (.resetWith c stim) = .next t → t.regs.valid = false)

/-! ## The stimulus notation -/

/-- 30_encoding.md R80: what `H n`, `L n`, `RST n`, `BIT b` and `FRAME s2 t a c` stand for (the last two for even `BIT_CYCLES`), item after
item; adjacent runs of one level merge in the encoding; and cycle 0 of a program is the first cycle after reset. -/
def Obligations.StimulusItemsExpand : Prop :=
  ∀ c : Config,
    (∀ n, stimulusInputs c [.high n] = some (List.replicate n ⟨true, false⟩) ∧
      stimulusInputs c [.low n] = some (List.replicate n ⟨false, false⟩) ∧
      stimulusInputs c [.reset n] = some (List.replicate n ⟨true, true⟩)) ∧
    (c.bitCycles % 2 = 0 →
      stimulusInputs c [.bit true] = stimulusInputs c [.high (c.bitCycles / 2), .low (c.bitCycles / 2)] ∧
      stimulusInputs c [.bit false] = stimulusInputs c [.low (c.bitCycles / 2), .high (c.bitCycles / 2)] ∧
      ∀ (s2 t : Bool) (a : BitVec 5) (cmd : BitVec 6), stimulusInputs c [.frame s2 t a cmd] =
        stimulusInputs c [.bit true, .bit s2, .bit t,
          .bit (a.getLsbD 4), .bit (a.getLsbD 3), .bit (a.getLsbD 2), .bit (a.getLsbD 1), .bit (a.getLsbD 0),
          .bit (cmd.getLsbD 5), .bit (cmd.getLsbD 4), .bit (cmd.getLsbD 3), .bit (cmd.getLsbD 2), .bit (cmd.getLsbD 1),
          .bit (cmd.getLsbD 0)]) ∧
    (∀ (p q : List StimulusItem) (x y : List Input), stimulusInputs c p = some x → stimulusInputs c q = some y →
      stimulusInputs c (p ++ q) = some (x ++ y)) ∧
    (∀ (x : List Input) (k : Nat) (a b : Bool × Nat), (encodeStimulus x).runs[k]? = some a →
      (encodeStimulus x).runs[k + 1]? = some b → a.1 ≠ b.1) ∧
    ∀ (x : List Input) (k : Nat) (i : Input), x[k]? = some i →
      (State.resetWith c x).cycle = 0 ∧ (State.resetWith c x).inputAt k = i
end

