-- ==== Sys2Proof/Laws/Config.lean ====
section
/-! SUPPORT. The parameters of an instance, given or defaulted, one lemma per field. -/

namespace Sys2Proof.Config

variable (clkHz : PNat) (given : Given)

@[simp] theorem elaborated_clkHz : (elaborated clkHz given).clkHz = clkHz := rfl
@[simp] theorem elaborated_bitCycles :
    (elaborated clkHz given).bitCycles = given.bitCycles.getD (defaultBitCycles clkHz) := rfl
@[simp] theorem elaborated_confCycles :
    (elaborated clkHz given).confCycles = given.confCycles.getD (defaultConfCycles (elaborated clkHz given).bitCycles) := rfl
@[simp] theorem elaborated_acceptMask : (elaborated clkHz given).acceptMask = given.acceptMask.getD defaultAcceptMask := rfl
@[simp] theorem elaborated_acceptMatch : (elaborated clkHz given).acceptMatch = given.acceptMatch.getD defaultAcceptMatch := rfl

/-- The default match value has no bit outside the default mask (00_scope.md R6 condition 3). -/
theorem defaults_matchOk : defaultAcceptMatch &&& ~~~defaultAcceptMask = 0#14 := by decide

end Sys2Proof.Config
end

