-- ==== Sys2Proof/Laws/Decode.lean ====
section
/-! SUPPORT. The fields of the selector word and of a frame, and what the decoders give on them. -/

/-! ## State codes

`simp` writes every code as its number (30_encoding.md R75). -/

@[simp] theorem Sys2Proof.Fsm.idle_eq : Sys2Proof.Fsm.idle = 0#3 := rfl
@[simp] theorem Sys2Proof.Fsm.confirm_eq : Sys2Proof.Fsm.confirm = 1#3 := rfl
@[simp] theorem Sys2Proof.Fsm.waitBit_eq : Sys2Proof.Fsm.waitBit = 2#3 := rfl
@[simp] theorem Sys2Proof.Fsm.recheck_eq : Sys2Proof.Fsm.recheck = 3#3 := rfl
@[simp] theorem Sys2Proof.Fsm.validate_eq : Sys2Proof.Fsm.validate = 4#3 := rfl

namespace Sys2Proof.Machine

/-! ## The selector word -/

section Selector

variable (f : BitVec 3) (p d l m c b a : Bool)

/-- A selector word from its fields (30_encoding.md R76), in the shape `selector` has. -/
def selectorOfFields : BitVec 10 :=
  f ++ BitVec.ofBool p ++ BitVec.ofBool d ++ BitVec.ofBool l ++ BitVec.ofBool m ++ BitVec.ofBool c ++ BitVec.ofBool b
    ++ BitVec.ofBool a

/-- Which field each bit of the selector word is. -/
theorem getLsbD_selectorOfFields (i : Nat) : (selectorOfFields f p d l m c b a).getLsbD i =
    if i = 0 then a else if i = 1 then b else if i = 2 then c else if i = 3 then m else if i = 4 then l
    else if i = 5 then d else if i = 6 then p else f.getLsbD (i - 7) := by
  unfold selectorOfFields
  iterate 7 erw [BitVec.getLsbD_append]
  match i with
  | 0 | 1 | 2 | 3 | 4 | 5 | 6 => simp
  | n + 7 => simp

theorem extractFsm_selectorOfFields : (selectorOfFields f p d l m c b a).extractLsb' 7 3 = f := by
  apply BitVec.eq_of_getLsbD_eq
  intro i hi
  simp only [BitVec.getLsbD_extractLsb', getLsbD_selectorOfFields, hi, decide_true, Bool.true_and]
  have : i = 0 ∨ i = 1 ∨ i = 2 := by omega
  obtain rfl | rfl | rfl := this <;> rfl

/-- Decoding a selector word is the table of R77 on its fields. -/
theorem decodeSelector_ofFields :
    decodeSelector (selectorOfFields f p d l m c b a) = selectOperation f p d l m c a := by
  simp only [decodeSelector, extractFsm_selectorOfFields, getLsbD_selectorOfFields]
  rfl

end Selector

theorem selector_eq_ofFields (c : Config) (r : Regs) :
    selector c r = selectorOfFields r.fsm r.pend (delayDone r) (line r) r.cmpf (lastConfirmation r) (lastBit r)
      (frameAccepted c r) := rfl

/-- The operation of a cycle, from the registers themselves. -/
theorem operation_eq (s : State) :
    s.operation = selectOperation s.regs.fsm s.regs.pend (delayDone s.regs) (line s.regs) s.regs.cmpf
      (lastConfirmation s.regs) (frameAccepted s.cfg s.regs) := by
  rw [State.operation, selector_eq_ofFields, decodeSelector_ofFields]

/-! ## The operation of a cycle, by state of the sequencer (30_encoding.md R77) -/

section Operation

variable {s : State}

theorem operation_idle (h : s.regs.fsm = Fsm.idle) :
    s.operation = if s.regs.pend then .passEnter else .idleWait := by
  simp [operation_eq, selectOperation, h]

theorem operation_confirm (h : s.regs.fsm = Fsm.confirm) :
    s.operation = if s.regs.dcnt = 0 then (if s.regs.s2 then .confNoise
      else if s.regs.cidx = 2#2 then .passStart else .confNext) else .confDelay := by
  simp [operation_eq, selectOperation, h, delayDone, line, lastConfirmation]

theorem operation_waitBit (h : s.regs.fsm = Fsm.waitBit) :
    s.operation = if s.regs.cmpf then (if s.regs.s2 then .bitZero else .bitProbe) else .bitWait := by
  cases hc : s.regs.cmpf <;> cases hl : s.regs.s2 <;>
    simp [operation_eq, selectOperation, h, line, hc, hl]

theorem operation_recheck (h : s.regs.fsm = Fsm.recheck) :
    s.operation = if s.regs.dcnt = 0 then (if s.regs.s2 then .rchkZero
      else if s.regs.cidx = 1#2 then .rchkOne else .rchkNext) else .rchkDelay := by
  simp [operation_eq, selectOperation, h, delayDone, line, lastConfirmation]

theorem operation_validate (h : s.regs.fsm = Fsm.validate) :
    s.operation = if accept s.cfg s.regs.frame then .frameAccept else .frameReject := by
  cases ha : accept s.cfg s.regs.frame <;>
    simp [operation_eq, selectOperation, h, frameAccepted, ha]

theorem operation_illegal (h : 4 < s.regs.fsm.toNat) :
    s.operation = if s.regs.fsm = 5#3 then .illegalState5 else .illegalState67 := by
  have h0 : s.regs.fsm ≠ Fsm.idle := by rintro e; rw [e] at h; exact absurd h (by decide)
  have h1 : s.regs.fsm ≠ Fsm.confirm := by rintro e; rw [e] at h; exact absurd h (by decide)
  have h2 : s.regs.fsm ≠ Fsm.waitBit := by rintro e; rw [e] at h; exact absurd h (by decide)
  have h3 : s.regs.fsm ≠ Fsm.recheck := by rintro e; rw [e] at h; exact absurd h (by decide)
  have h4 : s.regs.fsm ≠ Fsm.validate := by rintro e; rw [e] at h; exact absurd h (by decide)
  simp [operation_eq, selectOperation, h0, h1, h2, h3, h4]

/-- The five states and the illegal codes. -/
theorem fsm_cases (f : BitVec 3) :
    f = Fsm.idle ∨ f = Fsm.confirm ∨ f = Fsm.waitBit ∨ f = Fsm.recheck ∨ f = Fsm.validate ∨ 4 < f.toNat := by
  revert f; decide

end Operation

/-! ## Frames -/

section Frame

variable (s1 s2 tog : Bool) (a : BitVec 5) (c : BitVec 6)

/-- Which field each bit of a frame is (30_encoding.md R70). -/
theorem getLsbD_frameOfFields (i : Nat) : (frameOfFields s1 s2 tog a c).getLsbD i =
    if i < 6 then c.getLsbD i else if i < 11 then a.getLsbD (i - 6) else if i = 11 then tog else if i = 12 then s2
    else if i = 13 then s1 else false := by
  unfold frameOfFields
  iterate 4 erw [BitVec.getLsbD_append]
  by_cases h6 : i < 6
  · simp [h6]
  by_cases h11 : i < 11
  · simp [h6, h11, show i - 6 < 5 by omega]
  match i with
  | 11 | 12 | 13 => simp
  | n + 14 => simp

@[simp] theorem startField1_frameOfFields : startField1 (frameOfFields s1 s2 tog a c) = s1 := by
  simp only [startField1, getLsbD_frameOfFields]; rfl

@[simp] theorem startField2_frameOfFields : startField2 (frameOfFields s1 s2 tog a c) = s2 := by
  simp only [startField2, getLsbD_frameOfFields]; rfl

@[simp] theorem toggleField_frameOfFields : toggleField (frameOfFields s1 s2 tog a c) = tog := by
  simp only [toggleField, getLsbD_frameOfFields]; rfl

@[simp] theorem addressField_frameOfFields : addressField (frameOfFields s1 s2 tog a c) = a := by
  apply BitVec.eq_of_getLsbD_eq
  intro i hi
  simp only [addressField, BitVec.getLsbD_extractLsb', getLsbD_frameOfFields]
  simp [hi, show 6 + i < 11 by omega]

@[simp] theorem commandField_frameOfFields : commandField (frameOfFields s1 s2 tog a c) = c := by
  apply BitVec.eq_of_getLsbD_eq
  intro i hi
  simp only [commandField, BitVec.getLsbD_extractLsb', getLsbD_frameOfFields]
  simp [hi]

/-- A frame as a number: each field at the weight of its lowest bit (30_encoding.md R70). -/
theorem toNat_frameOfFields : (frameOfFields s1 s2 tog a c).toNat =
    8192 * s1.toNat + 4096 * s2.toNat + 2048 * tog.toNat + 64 * a.toNat + c.toNat := by
  have ha := a.isLt
  have hc := c.isLt
  unfold frameOfFields
  iterate 4 erw [BitVec.toNat_append]
  simp only [BitVec.toNat_ofBool]
  rw [← Nat.shiftLeft_add_eq_or_of_lt hc, ← Nat.shiftLeft_add_eq_or_of_lt ha,
    ← Nat.shiftLeft_add_eq_or_of_lt (by cases tog <;> decide), ← Nat.shiftLeft_add_eq_or_of_lt (by cases s2 <;> decide)]
  simp only [Nat.shiftLeft_eq]
  omega

/-- A frame is its five fields (30_encoding.md R70). -/
theorem frameOfFields_fields (f : BitVec 14) :
    frameOfFields (startField1 f) (startField2 f) (toggleField f) (addressField f) (commandField f) = f := by
  apply BitVec.eq_of_getLsbD_eq
  intro i hi
  rw [getLsbD_frameOfFields]
  by_cases h6 : i < 6
  · simp [commandField, h6]
  by_cases h11 : i < 11
  · simp [addressField, h6, h11, show i - 6 < 5 by omega, show 6 + (i - 6) = i by omega]
  have : i = 11 ∨ i = 12 ∨ i = 13 := by omega
  obtain rfl | rfl | rfl := this <;> simp [startField1, startField2, toggleField]

/-- The class of a frame built from its fields (30_encoding.md R78). -/
theorem decodeFrame_frameOfFields :
    decodeFrame (frameOfFields s1 s2 tog a c) =
      if s2 then (if tog then .rc5RejectT s1 a c else .rc5Accept s1 a c) else .rc5RejectS2 s1 tog a c := by
  cases s2 <;> simp [decodeFrame]

end Frame

end Sys2Proof.Machine
end

