-- ==== Sys2Proof/Laws/State.lean ====
section
/-! SUPPORT. One lemma per field for each update of the registers and of the state, so that no later proof unfolds a record update. -/

namespace Sys2Proof.Machine

/-! ## The background updates -/

@[simp] theorem background_s1 (c : Config) (k : Controls) (ir : Bool) (r : Regs) : (background c k ir r).s1 = ir := rfl
@[simp] theorem background_s2 (c : Config) (k : Controls) (ir : Bool) (r : Regs) : (background c k ir r).s2 = r.s1 := rfl
@[simp] theorem background_s3 (c : Config) (k : Controls) (ir : Bool) (r : Regs) : (background c k ir r).s3 = r.s2 := rfl
@[simp] theorem background_pend (c : Config) (k : Controls) (ir : Bool) (r : Regs) : (background c k ir r).pend = nextPend k r := rfl
@[simp] theorem background_fsm (c : Config) (k : Controls) (ir : Bool) (r : Regs) : (background c k ir r).fsm = r.fsm := rfl
@[simp] theorem background_dcnt (c : Config) (k : Controls) (ir : Bool) (r : Regs) : (background c k ir r).dcnt = r.dcnt := rfl
@[simp] theorem background_cidx (c : Config) (k : Controls) (ir : Bool) (r : Regs) : (background c k ir r).cidx = r.cidx := rfl
@[simp] theorem background_tmr (c : Config) (k : Controls) (ir : Bool) (r : Regs) : (background c k ir r).tmr = nextTmr c k r := rfl
@[simp] theorem background_cmpf (c : Config) (k : Controls) (ir : Bool) (r : Regs) : (background c k ir r).cmpf = nextCmpf c k r := rfl
@[simp] theorem background_bcnt (c : Config) (k : Controls) (ir : Bool) (r : Regs) : (background c k ir r).bcnt = r.bcnt := rfl
@[simp] theorem background_frame (c : Config) (k : Controls) (ir : Bool) (r : Regs) : (background c k ir r).frame = r.frame := rfl
@[simp] theorem background_outCmd (c : Config) (k : Controls) (ir : Bool) (r : Regs) : (background c k ir r).outCmd = r.outCmd := rfl
@[simp] theorem background_outAddr (c : Config) (k : Controls) (ir : Bool) (r : Regs) : (background c k ir r).outAddr = r.outAddr := rfl
@[simp] theorem background_outTog (c : Config) (k : Controls) (ir : Bool) (r : Regs) : (background c k ir r).outTog = r.outTog := rfl
@[simp] theorem background_outFrame (c : Config) (k : Controls) (ir : Bool) (r : Regs) : (background c k ir r).outFrame = r.outFrame := rfl
@[simp] theorem background_valid (c : Config) (k : Controls) (ir : Bool) (r : Regs) : (background c k ir r).valid = k.strobe := rfl
@[simp] theorem background_kick (c : Config) (k : Controls) (ir : Bool) (r : Regs) : (background c k ir r).kick = k.kick := rfl

/-! ## Loading the delay counter -/

@[simp] theorem loadDelay_s1 (c : Config) (r : Regs) : (loadDelay c r).s1 = r.s1 := rfl
@[simp] theorem loadDelay_s2 (c : Config) (r : Regs) : (loadDelay c r).s2 = r.s2 := rfl
@[simp] theorem loadDelay_s3 (c : Config) (r : Regs) : (loadDelay c r).s3 = r.s3 := rfl
@[simp] theorem loadDelay_pend (c : Config) (r : Regs) : (loadDelay c r).pend = r.pend := rfl
@[simp] theorem loadDelay_fsm (c : Config) (r : Regs) : (loadDelay c r).fsm = r.fsm := rfl
@[simp] theorem loadDelay_dcnt (c : Config) (r : Regs) : (loadDelay c r).dcnt = c.confCycles - 1 := rfl
@[simp] theorem loadDelay_cidx (c : Config) (r : Regs) : (loadDelay c r).cidx = r.cidx := rfl
@[simp] theorem loadDelay_tmr (c : Config) (r : Regs) : (loadDelay c r).tmr = r.tmr := rfl
@[simp] theorem loadDelay_cmpf (c : Config) (r : Regs) : (loadDelay c r).cmpf = r.cmpf := rfl
@[simp] theorem loadDelay_bcnt (c : Config) (r : Regs) : (loadDelay c r).bcnt = r.bcnt := rfl
@[simp] theorem loadDelay_frame (c : Config) (r : Regs) : (loadDelay c r).frame = r.frame := rfl
@[simp] theorem loadDelay_outCmd (c : Config) (r : Regs) : (loadDelay c r).outCmd = r.outCmd := rfl
@[simp] theorem loadDelay_outAddr (c : Config) (r : Regs) : (loadDelay c r).outAddr = r.outAddr := rfl
@[simp] theorem loadDelay_outTog (c : Config) (r : Regs) : (loadDelay c r).outTog = r.outTog := rfl
@[simp] theorem loadDelay_outFrame (c : Config) (r : Regs) : (loadDelay c r).outFrame = r.outFrame := rfl
@[simp] theorem loadDelay_valid (c : Config) (r : Regs) : (loadDelay c r).valid = r.valid := rfl
@[simp] theorem loadDelay_kick (c : Config) (r : Regs) : (loadDelay c r).kick = r.kick := rfl

/-! ## Counting the delay down -/

@[simp] theorem countDelay_s1 (before r : Regs) : (countDelay before r).s1 = r.s1 := rfl
@[simp] theorem countDelay_s2 (before r : Regs) : (countDelay before r).s2 = r.s2 := rfl
@[simp] theorem countDelay_s3 (before r : Regs) : (countDelay before r).s3 = r.s3 := rfl
@[simp] theorem countDelay_pend (before r : Regs) : (countDelay before r).pend = r.pend := rfl
@[simp] theorem countDelay_fsm (before r : Regs) : (countDelay before r).fsm = r.fsm := rfl
@[simp] theorem countDelay_dcnt (before r : Regs) : (countDelay before r).dcnt = before.dcnt - 1 := rfl
@[simp] theorem countDelay_cidx (before r : Regs) : (countDelay before r).cidx = r.cidx := rfl
@[simp] theorem countDelay_tmr (before r : Regs) : (countDelay before r).tmr = r.tmr := rfl
@[simp] theorem countDelay_cmpf (before r : Regs) : (countDelay before r).cmpf = r.cmpf := rfl
@[simp] theorem countDelay_bcnt (before r : Regs) : (countDelay before r).bcnt = r.bcnt := rfl
@[simp] theorem countDelay_frame (before r : Regs) : (countDelay before r).frame = r.frame := rfl
@[simp] theorem countDelay_outCmd (before r : Regs) : (countDelay before r).outCmd = r.outCmd := rfl
@[simp] theorem countDelay_outAddr (before r : Regs) : (countDelay before r).outAddr = r.outAddr := rfl
@[simp] theorem countDelay_outTog (before r : Regs) : (countDelay before r).outTog = r.outTog := rfl
@[simp] theorem countDelay_outFrame (before r : Regs) : (countDelay before r).outFrame = r.outFrame := rfl
@[simp] theorem countDelay_valid (before r : Regs) : (countDelay before r).valid = r.valid := rfl
@[simp] theorem countDelay_kick (before r : Regs) : (countDelay before r).kick = r.kick := rfl

/-! ## Shifting a bit in -/

@[simp] theorem shiftIn_s1 (bit : Bool) (before r : Regs) : (shiftIn bit before r).s1 = r.s1 := rfl
@[simp] theorem shiftIn_s2 (bit : Bool) (before r : Regs) : (shiftIn bit before r).s2 = r.s2 := rfl
@[simp] theorem shiftIn_s3 (bit : Bool) (before r : Regs) : (shiftIn bit before r).s3 = r.s3 := rfl
@[simp] theorem shiftIn_pend (bit : Bool) (before r : Regs) : (shiftIn bit before r).pend = r.pend := rfl
@[simp] theorem shiftIn_fsm (bit : Bool) (before r : Regs) : (shiftIn bit before r).fsm = if lastBit before then Fsm.validate else Fsm.waitBit := rfl
@[simp] theorem shiftIn_dcnt (bit : Bool) (before r : Regs) : (shiftIn bit before r).dcnt = r.dcnt := rfl
@[simp] theorem shiftIn_cidx (bit : Bool) (before r : Regs) : (shiftIn bit before r).cidx = r.cidx := rfl
@[simp] theorem shiftIn_tmr (bit : Bool) (before r : Regs) : (shiftIn bit before r).tmr = r.tmr := rfl
@[simp] theorem shiftIn_cmpf (bit : Bool) (before r : Regs) : (shiftIn bit before r).cmpf = r.cmpf := rfl
@[simp] theorem shiftIn_bcnt (bit : Bool) (before r : Regs) : (shiftIn bit before r).bcnt = before.bcnt + 1#4 := rfl
@[simp] theorem shiftIn_frame (bit : Bool) (before r : Regs) : (shiftIn bit before r).frame = before.frame <<< 1 ||| (BitVec.ofBool bit).setWidth 14 := rfl
@[simp] theorem shiftIn_outCmd (bit : Bool) (before r : Regs) : (shiftIn bit before r).outCmd = r.outCmd := rfl
@[simp] theorem shiftIn_outAddr (bit : Bool) (before r : Regs) : (shiftIn bit before r).outAddr = r.outAddr := rfl
@[simp] theorem shiftIn_outTog (bit : Bool) (before r : Regs) : (shiftIn bit before r).outTog = r.outTog := rfl
@[simp] theorem shiftIn_outFrame (bit : Bool) (before r : Regs) : (shiftIn bit before r).outFrame = r.outFrame := rfl
@[simp] theorem shiftIn_valid (bit : Bool) (before r : Regs) : (shiftIn bit before r).valid = r.valid := rfl
@[simp] theorem shiftIn_kick (bit : Bool) (before r : Regs) : (shiftIn bit before r).kick = r.kick := rfl

/-! ## Presenting a frame -/

@[simp] theorem presentFrame_s1 (f : BitVec 14) (r : Regs) : (presentFrame f r).s1 = r.s1 := rfl
@[simp] theorem presentFrame_s2 (f : BitVec 14) (r : Regs) : (presentFrame f r).s2 = r.s2 := rfl
@[simp] theorem presentFrame_s3 (f : BitVec 14) (r : Regs) : (presentFrame f r).s3 = r.s3 := rfl
@[simp] theorem presentFrame_pend (f : BitVec 14) (r : Regs) : (presentFrame f r).pend = r.pend := rfl
@[simp] theorem presentFrame_fsm (f : BitVec 14) (r : Regs) : (presentFrame f r).fsm = r.fsm := rfl
@[simp] theorem presentFrame_dcnt (f : BitVec 14) (r : Regs) : (presentFrame f r).dcnt = r.dcnt := rfl
@[simp] theorem presentFrame_cidx (f : BitVec 14) (r : Regs) : (presentFrame f r).cidx = r.cidx := rfl
@[simp] theorem presentFrame_tmr (f : BitVec 14) (r : Regs) : (presentFrame f r).tmr = r.tmr := rfl
@[simp] theorem presentFrame_cmpf (f : BitVec 14) (r : Regs) : (presentFrame f r).cmpf = r.cmpf := rfl
@[simp] theorem presentFrame_bcnt (f : BitVec 14) (r : Regs) : (presentFrame f r).bcnt = r.bcnt := rfl
@[simp] theorem presentFrame_frame (f : BitVec 14) (r : Regs) : (presentFrame f r).frame = r.frame := rfl
@[simp] theorem presentFrame_outCmd (f : BitVec 14) (r : Regs) : (presentFrame f r).outCmd = commandField f := rfl
@[simp] theorem presentFrame_outAddr (f : BitVec 14) (r : Regs) : (presentFrame f r).outAddr = addressField f := rfl
@[simp] theorem presentFrame_outTog (f : BitVec 14) (r : Regs) : (presentFrame f r).outTog = toggleField f := rfl
@[simp] theorem presentFrame_outFrame (f : BitVec 14) (r : Regs) : (presentFrame f r).outFrame = f := rfl
@[simp] theorem presentFrame_valid (f : BitVec 14) (r : Regs) : (presentFrame f r).valid = r.valid := rfl
@[simp] theorem presentFrame_kick (f : BitVec 14) (r : Regs) : (presentFrame f r).kick = r.kick := rfl

/-! ## The edges -/

@[simp] theorem clockEdge_cfg (s : State) (k : Controls) (write : Regs → Regs) (o : Option PassOutcome) :
    (clockEdge s k write o).cfg = s.cfg := rfl
@[simp] theorem clockEdge_regs (s : State) (k : Controls) (write : Regs → Regs) (o : Option PassOutcome) :
    (clockEdge s k write o).regs = write (background s.cfg k s.input.ir s.regs) := rfl
@[simp] theorem clockEdge_cycle (s : State) (k : Controls) (write : Regs → Regs) (o : Option PassOutcome) :
    (clockEdge s k write o).cycle = s.cycle + 1 := rfl
@[simp] theorem clockEdge_stim (s : State) (k : Controls) (write : Regs → Regs) (o : Option PassOutcome) :
    (clockEdge s k write o).stim = s.stim.tail := rfl
@[simp] theorem clockEdge_outcomes (s : State) (k : Controls) (write : Regs → Regs) (o : Option PassOutcome) :
    (clockEdge s k write o).outcomes = emitted s o := rfl
@[simp] theorem resetEdge_cfg (s : State) : (resetEdge s).cfg = s.cfg := rfl
@[simp] theorem resetEdge_regs (s : State) : (resetEdge s).regs = .reset := rfl
@[simp] theorem resetEdge_cycle (s : State) : (resetEdge s).cycle = s.cycle + 1 := rfl
@[simp] theorem resetEdge_stim (s : State) : (resetEdge s).stim = s.stim.tail := rfl
@[simp] theorem resetEdge_outcomes (s : State) : (resetEdge s).outcomes = s.outcomes := rfl
@[simp] theorem withFrame_cfg (s : State) (f : BitVec 14) : (s.withFrame f).cfg = s.cfg := rfl
@[simp] theorem withFrame_regs (s : State) (f : BitVec 14) : (s.withFrame f).regs = { s.regs with frame := f } := rfl
@[simp] theorem withFrame_cycle (s : State) (f : BitVec 14) : (s.withFrame f).cycle = s.cycle := rfl
@[simp] theorem withFrame_stim (s : State) (f : BitVec 14) : (s.withFrame f).stim = s.stim := rfl
@[simp] theorem withFrame_outcomes (s : State) (f : BitVec 14) : (s.withFrame f).outcomes = s.outcomes := rfl

@[simp] theorem withFrame_input (s : State) (f : BitVec 14) : (s.withFrame f).input = s.input := rfl

@[simp] theorem emitted_none (s : State) : emitted s none = s.outcomes := rfl
@[simp] theorem emitted_some (s : State) (o : PassOutcome) : emitted s (some o) = s.outcomes ++ [⟨s.cycle, o⟩] := rfl

end Sys2Proof.Machine
end

