-- ==== Sys2Proof/Laws/Ops.lean ====
section
/-! SUPPORT. The shared operations as facts about numbers and flags: what a proof cites in place of their definitions. -/

namespace Sys2Proof.Machine

/-! ## The configuration -/

/-- The conditions 1 and 2 of 00_scope.md R6 as inequalities. -/
theorem wellFormed_bounds {c : Config} (h : c.wellFormed = true) :
    1 ≤ c.confCycles ∧ 2 * c.confCycles + 2 ≤ c.bitCycles := by
  simp only [Config.wellFormed, Config.confOk, Config.bitOk, Bool.and_eq_true, decide_eq_true_eq] at h
  exact h.1

/-- Condition 3 of 00_scope.md R6. -/
theorem wellFormed_match {c : Config} (h : c.wellFormed = true) : c.acceptMatch &&& ~~~c.acceptMask = 0#14 := by
  simp only [Config.wellFormed, Config.matchOk, Bool.and_eq_true, beq_iff_eq] at h
  exact h.2

/-! ## Flags and timer -/

theorem tick_iff {c : Config} {r : Regs} : tick c r = true ↔ r.tmr = c.bitCycles - 1 := by simp [tick]

theorem fall_iff {r : Regs} : fall r = true ↔ r.s3 = true ∧ r.s2 = false := by simp [fall]

/-- The clear wins (40_edge.md R102). -/
@[simp] theorem nextPend_clear {k : Controls} {r : Regs} (h : k.clear = true) : nextPend k r = false := by simp [nextPend, h]

/-- Without a clear, `pend` is the old flag or a falling edge (40_edge.md R102). -/
theorem nextPend_hold {k : Controls} {r : Regs} (h : k.clear = false) : nextPend k r = (fall r || r.pend) := by
  simp only [nextPend, h]
  cases fall r <;> simp

/-- The timer stays within its period (41_sampling.md R121). -/
theorem nextTmr_lt {c : Config} {k : Controls} {r : Regs} (hB : 0 < c.bitCycles) (h : r.tmr < c.bitCycles) :
    nextTmr c k r < c.bitCycles := by
  unfold nextTmr
  split
  · exact hB
  · split
    · exact hB
    · rename_i ht
      rw [tick_iff] at ht
      omega

/-- Between compare events the timer counts and the compare flag is only ever consumed (41_sampling.md R121, R122). -/
theorem nextTmr_count {c : Config} {k : Controls} {r : Regs} (hk : k.start = false) (h : r.tmr + 1 < c.bitCycles) :
    nextTmr c k r = r.tmr + 1 := by
  have : ¬tick c r = true := by rw [tick_iff]; omega
  simp [nextTmr, hk, this]

theorem nextCmpf_count {c : Config} {k : Controls} {r : Regs} (hk : k.start = false) (h : r.tmr + 1 < c.bitCycles) :
    nextCmpf c k r = (!k.consume && r.cmpf) := by
  have : ¬tick c r = true := by rw [tick_iff]; omega
  cases hc : k.consume <;> simp [nextCmpf, hk, this, hc]

/-- At the compare event the timer wraps and the flag is set (41_sampling.md R121, R122). -/
theorem nextTmr_tick {c : Config} {k : Controls} {r : Regs} (h : r.tmr + 1 = c.bitCycles) : nextTmr c k r = 0 := by
  have : tick c r = true := by rw [tick_iff]; omega
  simp [nextTmr, this]

theorem nextCmpf_tick {c : Config} {k : Controls} {r : Regs} (hk : k.start = false) (h : r.tmr + 1 = c.bitCycles) :
    nextCmpf c k r = true := by
  have : tick c r = true := by rw [tick_iff]; omega
  simp [nextCmpf, hk, this]

/-! ## Shifting a bit in (41_sampling.md R120) -/

/-- The frame register after a shift, as a number. -/
theorem toNat_shifted (f : BitVec 14) (bit : Bool) :
    (f <<< 1 ||| (BitVec.ofBool bit).setWidth 14).toNat = (2 * f.toNat + bit.toNat) % 2 ^ 14 := by
  have e : f <<< 1 ||| (BitVec.ofBool bit).setWidth 14 = BitVec.ofNat 14 (2 * f.toNat + bit.toNat) := by
    apply BitVec.eq_of_getLsbD_eq
    intro i hi
    rw [BitVec.getLsbD_or, BitVec.getLsbD_shiftLeft, BitVec.getLsbD_setWidth, BitVec.getLsbD_ofBool, BitVec.getLsbD_ofNat]
    cases i with
    | zero => cases bit <;> simp
    | succ n =>
      have hd : (2 * f.toNat + bit.toNat) / 2 = f.toNat := by cases bit <;> simp; omega
      simp [hi, Nat.testBit_succ, hd, BitVec.getLsbD]
  rw [e, BitVec.toNat_ofNat]

/-- The bit count after a shift, which does not wrap below 15 (10_state.md R28). -/
theorem toNat_count (n : BitVec 4) (h : n.toNat ≤ 14) : (n + 1#4).toNat = n.toNat + 1 := by
  rw [BitVec.toNat_add]
  simp
  omega

/-- S1 moves up with the count: it stays the highest bit set (10_state.md R29). -/
theorem shifted_top {f : BitVec 14} {n : Nat} (bit : Bool) (hn : n ≤ 12) (h : f.toNat / 2 ^ n = 1) :
    (f <<< 1 ||| (BitVec.ofBool bit).setWidth 14).toNat / 2 ^ (n + 1) = 1 := by
  have hlo : 2 ^ n ≤ f.toNat := by
    have := Nat.div_mul_le_self f.toNat (2 ^ n)
    rwa [h, Nat.one_mul] at this
  have hhi : f.toNat < 2 * 2 ^ n := by
    have := Nat.lt_div_mul_add (a := f.toNat) (b := 2 ^ n) (by positivity)
    rw [h] at this
    omega
  have hp : 2 ^ n ≤ 2 ^ 12 := Nat.pow_le_pow_right (by omega) hn
  have hb : bit.toNat ≤ 1 := by cases bit <;> simp
  rw [toNat_shifted, Nat.mod_eq_of_lt (by omega), Nat.pow_succ]
  apply Nat.div_eq_of_lt_le <;> omega

/-- A frame whose highest bit set is bit 13 has S1 = 1. -/
theorem top_bit13 {f : BitVec 14} (h : f.toNat / 2 ^ 13 = 1) : f.getLsbD 13 = true := by
  rw [BitVec.getLsbD, Nat.testBit_eq_decide_div_mod_eq]
  simp only [h]
  rfl

end Sys2Proof.Machine
end

