-- ==== Sys2Proof/Laws/PerInstr.lean ====
section
/-! SUPPORT. The per-instruction family: each instruction's word belongs to its own row of spec/opcode_table.json, whatever its fields. -/

namespace Sys2Proof.Laws.RowMatch

/-- The word of an instruction has the bits its row of the table fixes. -/
def Statement (i : Instr) : Prop := (tableRow i).accepts (encode i) = true

/-- The bits 12 and 11 of a frame, which the class rows fix (30_encoding.md R78). -/
theorem frame_row (s1 s2 tog : Bool) (a : BitVec 5) (c : BitVec 6) :
    (frameOfFields s1 s2 tog a c &&& 0x1000#14 == 0x1000#14) = s2 ∧
      (frameOfFields s1 s2 tog a c &&& 0x1000#14 == 0#14) = !s2 ∧
      (frameOfFields s1 s2 tog a c &&& 0x1800#14 == 0x1800#14) = (s2 && tog) ∧
      (frameOfFields s1 s2 tog a c &&& 0x1800#14 == 0x1000#14) = (s2 && !tog) := by
  have h12 : (frameOfFields s1 s2 tog a c).getLsbD 12 = s2 := Machine.startField2_frameOfFields ..
  have h11 : (frameOfFields s1 s2 tog a c).getLsbD 11 = tog := Machine.toggleField_frameOfFields ..
  generalize frameOfFields s1 s2 tog a c = f at h12 h11
  subst h12 h11
  have h : ∀ m : BitVec 14, (m = 0x1000#14 ∨ m = 0x1800#14) → f &&& m = (f &&& 0x1800#14) &&& m := by
    rintro m (rfl | rfl) <;> rw [BitVec.and_assoc] <;> rfl
  have hm : f &&& 0x1800#14 = bif f.getLsbD 12 then (bif f.getLsbD 11 then 0x1800#14 else 0x1000#14)
      else (bif f.getLsbD 11 then 0x0800#14 else 0#14) := by
    apply BitVec.eq_of_getLsbD_eq
    intro i hi
    rw [BitVec.getLsbD_and]
    cases h12 : f.getLsbD 12 <;> cases h11 : f.getLsbD 11 <;> interval_cases i <;> first
      | simp only [h11, Bool.false_and, Bool.true_and]; decide
      | simp only [h12, Bool.false_and, Bool.true_and]; decide
      | exact Bool.and_false _
  rw [h 0x1000#14 (.inl rfl), hm]
  cases f.getLsbD 12 <;> cases f.getLsbD 11 <;> decide

theorem idleWait : Statement .idleWait := by unfold Statement; decide
theorem passEnter : Statement .passEnter := by unfold Statement; decide
theorem confDelay : Statement .confDelay := by unfold Statement; decide
theorem confNoise : Statement .confNoise := by unfold Statement; decide
theorem confNext : Statement .confNext := by unfold Statement; decide
theorem passStart : Statement .passStart := by unfold Statement; decide
theorem bitWait : Statement .bitWait := by unfold Statement; decide
theorem bitZero : Statement .bitZero := by unfold Statement; decide
theorem bitProbe : Statement .bitProbe := by unfold Statement; decide
theorem rchkDelay : Statement .rchkDelay := by unfold Statement; decide
theorem rchkZero : Statement .rchkZero := by unfold Statement; decide
theorem rchkNext : Statement .rchkNext := by unfold Statement; decide
theorem rchkOne : Statement .rchkOne := by unfold Statement; decide
theorem frameAccept : Statement .frameAccept := by unfold Statement; decide
theorem frameReject : Statement .frameReject := by unfold Statement; decide
theorem illegalState5 : Statement .illegalState5 := by unfold Statement; decide
theorem illegalState67 : Statement .illegalState67 := by unfold Statement; decide

theorem rc5Accept (s1 : Bool) (address : BitVec 5) (command : BitVec 6) : Statement (.rc5Accept s1 address command) := by
  have h := (frame_row s1 true false address command).2.2.2
  simpa [Statement, tableRow, encode, TableRow.accepts, Word.format, Word.bits] using h

theorem rc5RejectS2 (s1 toggle : Bool) (address : BitVec 5) (command : BitVec 6) :
    Statement (.rc5RejectS2 s1 toggle address command) := by
  have h := (frame_row s1 false toggle address command).2.1
  simpa [Statement, tableRow, encode, TableRow.accepts, Word.format, Word.bits] using h

theorem rc5RejectT (s1 : Bool) (address : BitVec 5) (command : BitVec 6) : Statement (.rc5RejectT s1 address command) := by
  have h := (frame_row s1 true true address command).2.2.1
  simpa [Statement, tableRow, encode, TableRow.accepts, Word.format, Word.bits] using h

end Sys2Proof.Laws.RowMatch
end

