-- ==== Sys2Proof/Laws/Step.lean ====
section
/-! SUPPORT. What a meaning and a step can do, said once. -/

namespace Sys2Proof.Machine

/-! ## A meaning always completes -/

/-- No meaning faults or refuses. -/
theorem exec_completes (i : Instr) (s : State) : ∃ t, exec i s = .next t := by
  cases i <;> exact ⟨_, rfl⟩

@[simp] theorem endPass_cfg (s : State) (k : Controls) (w : Regs → Regs) (o : PassOutcome) : (endPass s k w o).cfg = s.cfg := rfl
@[simp] theorem endPass_cycle (s : State) (k : Controls) (w : Regs → Regs) (o : PassOutcome) :
    (endPass s k w o).cycle = s.cycle + 1 := rfl
@[simp] theorem endPass_stim (s : State) (k : Controls) (w : Regs → Regs) (o : PassOutcome) :
    (endPass s k w o).stim = s.stim.tail := rfl
@[simp] theorem endPass_outcomes (s : State) (k : Controls) (w : Regs → Regs) (o : PassOutcome) :
    (endPass s k w o).outcomes = s.outcomes ++ [⟨s.cycle, o⟩] := rfl
@[simp] theorem endPass_regs (s : State) (k : Controls) (w : Regs → Regs) (o : PassOutcome) :
    (endPass s k w o).regs =
      { w (background s.cfg { k with clear := true } s.input.ir s.regs) with fsm := Fsm.idle } := rfl

/-- Validating a frame ends the pass one way or the other (42_frame.md R140, R141). -/
theorem validateFrame_cases (s : State) (f : BitVec 14) :
    (accept s.cfg f = true ∧ validateFrame s f = acceptFrame (s.withFrame f) f) ∨
      (accept s.cfg f = false ∧ validateFrame s f = rejectFrame (s.withFrame f) f) := by
  unfold validateFrame
  cases h : accept s.cfg f <;> simp

/-- What surrounds the registers moves on by one cycle, whichever meaning runs. -/
theorem exec_surroundings {i : Instr} {s t : State} (h : exec i s = .next t) :
    t.cfg = s.cfg ∧ t.cycle = s.cycle + 1 ∧ t.stim = s.stim.tail := by
  have validated (f : BitVec 14) (e : validateFrame s f = t) :
      t.cfg = s.cfg ∧ t.cycle = s.cycle + 1 ∧ t.stim = s.stim.tail := by
    obtain ⟨-, e'⟩ | ⟨-, e'⟩ := validateFrame_cases s f <;> rw [e'] at e <;> subst e <;> exact ⟨rfl, rfl, rfl⟩
  cases i with
  | rc5Accept | rc5RejectS2 | rc5RejectT => exact validated _ (Host.Outcome.next.inj h)
  | _ => cases h; exact ⟨rfl, rfl, rfl⟩

/-! ## The step -/

/-- The step of a well-formed configuration. -/
theorem step_wellFormed {s : State} (hc : s.cfg.wellFormed = true) :
    step s = if s.input.rst then .next (resetEdge s) else exec s.operation s := by
  simp [step, hc]

theorem step_reset {s : State} (hc : s.cfg.wellFormed = true) (hr : s.input.rst = true) : step s = .next (resetEdge s) := by
  simp [step, hc, hr]

theorem step_operation {s : State} (hc : s.cfg.wellFormed = true) (hr : s.input.rst = false) :
    step s = exec s.operation s := by
  simp [step, hc, hr]

/-- A step answers next only under a well-formed configuration. -/
theorem step_next_wellFormed {s t : State} (h : step s = .next t) : s.cfg.wellFormed = true := by
  unfold step at h
  split at h
  · assumption
  · cases h

/-- What surrounds the registers moves on by one cycle in every step. -/
theorem step_surroundings {s t : State} (h : step s = .next t) :
    t.cfg = s.cfg ∧ t.cycle = s.cycle + 1 ∧ t.stim = s.stim.tail := by
  rw [step_wellFormed (step_next_wellFormed h)] at h
  split at h
  · cases h; exact ⟨rfl, rfl, rfl⟩
  · exact exec_surroundings h

/-- Everything a step can do: the reset edge, or the edge of one operation, each with what selects it (30_encoding.md R77). To show
something of every next state, show it of each of these. -/
theorem step_cases {P : State → Prop} {s t : State} (h : step s = .next t)
    (reset : s.input.rst = true → P (resetEdge s))
    (idleWait : s.regs.fsm = Fsm.idle → s.regs.pend = false → P (clockEdge s {} id none))
    (passEnter : s.regs.fsm = Fsm.idle → s.regs.pend = true → P (enterPass s))
    (confDelay : s.regs.fsm = Fsm.confirm → s.regs.dcnt ≠ 0 → P (clockEdge s {} (countDelay s.regs) none))
    (confNoise : s.regs.fsm = Fsm.confirm → s.regs.dcnt = 0 → s.regs.s2 = true →
      P (endPass s {} id (.noise (s.regs.cidx.toNat + 1))))
    (confNext : s.regs.fsm = Fsm.confirm → s.regs.dcnt = 0 → s.regs.s2 = false → s.regs.cidx ≠ 2#2 →
      P (clockEdge s {} (fun r => loadDelay s.cfg { r with cidx := s.regs.cidx + 1#2 }) none))
    (passStart : s.regs.fsm = Fsm.confirm → s.regs.dcnt = 0 → s.regs.s2 = false → s.regs.cidx = 2#2 →
      P (clockEdge s { start := true } (fun r => { r with fsm := Fsm.waitBit, frame := 1#14, bcnt := 0#4 }) none))
    (bitWait : s.regs.fsm = Fsm.waitBit → s.regs.cmpf = false → P (clockEdge s {} id none))
    (bitZero : s.regs.fsm = Fsm.waitBit → s.regs.cmpf = true → s.regs.s2 = true →
      P (clockEdge s { consume := true } (shiftIn false s.regs) none))
    (bitProbe : s.regs.fsm = Fsm.waitBit → s.regs.cmpf = true → s.regs.s2 = false →
      P (clockEdge s { consume := true } (fun r => loadDelay s.cfg { r with fsm := Fsm.recheck, cidx := 0#2 }) none))
    (rchkDelay : s.regs.fsm = Fsm.recheck → s.regs.dcnt ≠ 0 → P (clockEdge s {} (countDelay s.regs) none))
    (rchkZero : s.regs.fsm = Fsm.recheck → s.regs.dcnt = 0 → s.regs.s2 = true →
      P (clockEdge s {} (shiftIn false s.regs) none))
    (rchkNext : s.regs.fsm = Fsm.recheck → s.regs.dcnt = 0 → s.regs.s2 = false → s.regs.cidx ≠ 1#2 →
      P (clockEdge s {} (fun r => loadDelay s.cfg { r with cidx := 1#2 }) none))
    (rchkOne : s.regs.fsm = Fsm.recheck → s.regs.dcnt = 0 → s.regs.s2 = false → s.regs.cidx = 1#2 →
      P (clockEdge s {} (shiftIn true s.regs) none))
    (frameAccept : s.regs.fsm = Fsm.validate → accept s.cfg s.regs.frame = true → P (acceptFrame s s.regs.frame))
    (frameReject : s.regs.fsm = Fsm.validate → accept s.cfg s.regs.frame = false → P (rejectFrame s s.regs.frame))
    (illegalState : 4 < s.regs.fsm.toNat → P (recoverIllegal s)) : P t := by
  rw [step_wellFormed (step_next_wellFormed h)] at h
  split at h
  · rename_i hr; cases h; exact reset hr
  obtain hf | hf | hf | hf | hf | hf := fsm_cases s.regs.fsm
  · rw [operation_idle hf] at h
    split at h <;> rename_i hp <;> cases h
    exacts [passEnter hf hp, idleWait hf (by simpa using hp)]
  · rw [operation_confirm hf] at h
    split at h
    swap
    · rename_i hd; cases h; exact confDelay hf hd
    rename_i hd
    split at h
    · rename_i hl; cases h; exact confNoise hf hd hl
    rename_i hl
    have hl : s.regs.s2 = false := by simpa using hl
    split at h <;> rename_i hx <;> cases h
    exacts [passStart hf hd hl hx, confNext hf hd hl hx]
  · rw [operation_waitBit hf] at h
    split at h
    · rename_i hm
      split at h <;> rename_i hl <;> cases h
      exacts [bitZero hf hm hl, bitProbe hf hm (by simpa using hl)]
    · rename_i hm; cases h; exact bitWait hf (by simpa using hm)
  · rw [operation_recheck hf] at h
    split at h
    swap
    · rename_i hd; cases h; exact rchkDelay hf hd
    rename_i hd
    split at h
    · rename_i hl; cases h; exact rchkZero hf hd hl
    rename_i hl
    have hl : s.regs.s2 = false := by simpa using hl
    split at h <;> rename_i hx <;> cases h
    exacts [rchkOne hf hd hl hx, rchkNext hf hd hl hx]
  · rw [operation_validate hf] at h
    split at h <;> rename_i ha <;> cases h
    exacts [frameAccept hf ha, frameReject hf (by simpa using ha)]
  · rw [operation_illegal hf] at h
    split at h <;> cases h <;> exact illegalState hf

end Sys2Proof.Machine
end

