-- ==== Sys2Proof/Laws/Run.lean ====
section
/-! SUPPORT. Running several cycles: composition, the environment's stream, and what several cycles keep. -/

namespace Sys2Proof.Machine

/-! ## Composition -/

@[simp] theorem cycles_zero (s : State) : cycles 0 s = .next s := rfl

theorem cycles_succ {s t : State} (h : step s = .next t) (n : Nat) : cycles (n + 1) s = cycles n t := by
  simp only [cycles, Host.Core.run, Sys2Proof.core, h]

theorem cycles_one {s t : State} (h : step s = .next t) : cycles 1 s = .next t := cycles_succ h 0

theorem cycles_add {s t : State} {m : Nat} (h : cycles m s = .next t) (n : Nat) : cycles (m + n) s = cycles n t := by
  induction m generalizing s with
  | zero => cases h; simp
  | succ m ih =>
    cases hs : step s with
    | next u =>
      rw [show m + 1 + n = m + n + 1 by omega, cycles_succ hs]
      exact ih (by rwa [cycles_succ hs] at h)
    | fault r => cases r
    | refused r => simp only [cycles, Host.Core.run, Sys2Proof.core, hs] at h; cases h

/-- A run of `n + 1` cycles is one step and a run of `n`. -/
theorem cycles_succ_next {s u : State} {n : Nat} (h : cycles (n + 1) s = .next u) :
    ∃ t, step s = .next t ∧ cycles n t = .next u := by
  cases hs : step s with
  | next t => exact ⟨t, rfl, by rwa [cycles_succ hs] at h⟩
  | fault r => cases r
  | refused r => simp only [cycles, Host.Core.run, Sys2Proof.core, hs] at h; cases h

/-- Whatever every step keeps, every run keeps. -/
theorem cycles_keep {P : State → Prop} (hP : ∀ s t, P s → step s = .next t → P t) {n : Nat} {s t : State} (h0 : P s)
    (h : cycles n s = .next t) : P t := by
  induction n generalizing s with
  | zero => cases h; exact h0
  | succ n ih =>
    obtain ⟨u, hu, hn⟩ := cycles_succ_next h
    exact ih (hP s u h0 hu) hn

/-! ## The environment's stream -/

/-- A state whose surroundings are those one cycle later sees the stream one cycle further on. -/
theorem inputAt_advance {s t : State} (hc : t.cycle = s.cycle + 1) (hs : t.stim = s.stim.tail) (k : Nat) :
    t.inputAt k = s.inputAt (k + 1) := by
  simp only [State.inputAt, hc, hs, List.getElem?_tail, show s.cycle + 1 + k = s.cycle + (k + 1) by omega]

theorem noReset_advance {s t : State} (hc : t.cycle = s.cycle + 1) (hs : t.stim = s.stim.tail) {n : Nat}
    (h : s.NoReset (n + 1)) : t.NoReset n := by
  intro k hk
  rw [inputAt_advance hc hs]
  exact h (k + 1) (by omega)

theorem State.NoReset.now {s : State} {n : Nat} (h : s.NoReset n) (hn : 0 < n) : s.input.rst = false := h 0 hn

theorem State.NoReset.mono {s : State} {m n : Nat} (h : s.NoReset n) (hmn : m ≤ n) : s.NoReset m :=
  fun k hk => h k (by omega)

/-- The line ahead, one cycle later, where the synchroniser has moved (40_edge.md R100). -/
theorem lineAt_advance {s t : State} (hc : t.cycle = s.cycle + 1) (hs : t.stim = s.stim.tail) (h1 : t.regs.s1 = s.input.ir)
    (h2 : t.regs.s2 = s.regs.s1) (k : Nat) : t.lineAt k = s.lineAt (k + 1) := by
  match k with
  | 0 => exact h2
  | 1 => exact h1
  | k + 2 => simp only [State.lineAt, inputAt_advance hc hs]

end Sys2Proof.Machine
end

