-- ==== Sys2Proof/Laws/Stimulus.lean ====
section
/-! SUPPORT. What the cycles of a cell and of a frame are: how many, and none with a reset. -/

namespace Sys2Proof.Machine

@[simp] theorem sentBits_length (f : BitVec 14) : (sentBits f).length = 14 := by simp [sentBits]

/-- A cell fills its cycles where they halve evenly (30_encoding.md R80). -/
theorem cellInputs_length {c : Config} (h : c.bitCycles % 2 = 0) (b : Bool) : (cellInputs c b).length = c.bitCycles := by
  simp only [cellInputs, List.length_append, List.length_replicate]
  omega

theorem cellInputs_noReset {c : Config} {b : Bool} {i : Input} (h : i ∈ cellInputs c b) : i.rst = false := by
  simp only [cellInputs, List.mem_append, List.mem_replicate] at h
  obtain ⟨-, rfl⟩ | ⟨-, rfl⟩ := h <;> rfl

theorem frameInputs_noReset {c : Config} {f : BitVec 14} {i : Input} (h : i ∈ frameInputs c f) : i.rst = false := by
  simp only [frameInputs, List.mem_flatMap] at h
  obtain ⟨_, _, h⟩ := h
  exact cellInputs_noReset h

/-- A program's cycles are its first item's and then the rest's (30_encoding.md R80). -/
theorem stimulusInputs_cons {c : Config} {i : StimulusItem} {rest : List StimulusItem} {x : List Input} :
    stimulusInputs c (i :: rest) = some x ↔
      ∃ first others, i.inputs c = some first ∧ stimulusInputs c rest = some others ∧ first ++ others = x := by
  cases h : i.inputs c <;> cases g : stimulusInputs c rest <;> simp [stimulusInputs, h, g]

end Sys2Proof.Machine
end

