-- ==== Sys2Proof/Laws/Waits.lean ====
section
/-! SUPPORT. The stretches of a pass in which nothing is decided: the delay before a read, and the wait for a compare event. Each is one
lemma over its whole length, so that a proof about a pass goes from one read to the next. -/

namespace Sys2Proof.Machine

/-- `t` is `s` seen `n` cycles later from outside the registers: the same instance, further along the stream, with the line that `s`
had ahead of it. -/
structure Ahead (n : Nat) (s t : State) : Prop where
  cfg : t.cfg = s.cfg
  cycle : t.cycle = s.cycle + n
  input : ∀ k, t.inputAt k = s.inputAt (k + n)
  line : ∀ k, t.lineAt k = s.lineAt (k + n)

/-- What a waiting cycle holds: the state, the frame so far, the outputs and the outcomes. -/
structure Holds (s t : State) : Prop where
  fsm : t.regs.fsm = s.regs.fsm
  cidx : t.regs.cidx = s.regs.cidx
  bcnt : t.regs.bcnt = s.regs.bcnt
  frame : t.regs.frame = s.regs.frame
  outCmd : t.regs.outCmd = s.regs.outCmd
  outAddr : t.regs.outAddr = s.regs.outAddr
  outTog : t.regs.outTog = s.regs.outTog
  outFrame : t.regs.outFrame = s.regs.outFrame
  pend : s.regs.pend = true → t.regs.pend = true
  outcomes : t.outcomes = s.outcomes

theorem Ahead.refl (s : State) : Ahead 0 s s := ⟨rfl, rfl, fun _ => rfl, fun _ => rfl⟩

theorem Ahead.trans {m n : Nat} {s t u : State} (h : Ahead m s t) (g : Ahead n t u) : Ahead (m + n) s u where
  cfg := g.cfg.trans h.cfg
  cycle := by rw [g.cycle, h.cycle, Nat.add_assoc]
  input k := by rw [g.input, h.input, Nat.add_assoc, Nat.add_comm n m]
  line k := by rw [g.line, h.line, Nat.add_assoc, Nat.add_comm n m]

/-- One cycle on, where the synchroniser has moved and the surroundings with it. -/
theorem Ahead.one {s t : State} (hcfg : t.cfg = s.cfg) (hc : t.cycle = s.cycle + 1) (hs : t.stim = s.stim.tail)
    (h1 : t.regs.s1 = s.input.ir) (h2 : t.regs.s2 = s.regs.s1) : Ahead 1 s t :=
  ⟨hcfg, hc, inputAt_advance hc hs, lineAt_advance hc hs h1 h2⟩

theorem Ahead.noReset {m n : Nat} {s t : State} (h : Ahead m s t) (hr : s.NoReset (m + n)) : t.NoReset n := by
  intro k hk
  rw [h.input]
  exact hr (k + m) (by omega)

theorem Holds.refl (s : State) : Holds s s := ⟨rfl, rfl, rfl, rfl, rfl, rfl, rfl, rfl, id, rfl⟩

theorem Holds.trans {s t u : State} (h : Holds s t) (g : Holds t u) : Holds s u where
  fsm := g.fsm.trans h.fsm
  cidx := g.cidx.trans h.cidx
  bcnt := g.bcnt.trans h.bcnt
  frame := g.frame.trans h.frame
  outCmd := g.outCmd.trans h.outCmd
  outAddr := g.outAddr.trans h.outAddr
  outTog := g.outTog.trans h.outTog
  outFrame := g.outFrame.trans h.outFrame
  pend hp := g.pend (h.pend hp)
  outcomes := g.outcomes.trans h.outcomes

/-- Every operation of a running clock edge that asserts no clear and records no outcome moves the line on by one. -/
theorem clockEdge_ahead (s : State) (k : Controls) (w : Regs → Regs) (o : Option PassOutcome)
    (h1 : ∀ r, (w r).s1 = r.s1) (h2 : ∀ r, (w r).s2 = r.s2) : Ahead 1 s (clockEdge s k w o) :=
  .one rfl rfl rfl (h1 _) (h2 _)

/-- Until a compare event falls due, the timer counts and no compare flag is set (41_sampling.md R121, R122). -/
theorem background_timer {c : Config} {ir : Bool} {r : Regs} (h : r.tmr + 1 < c.bitCycles) :
    (background c {} ir r).tmr = r.tmr + 1 ∧ (background c {} ir r).cmpf = r.cmpf := by
  rw [background_tmr, background_cmpf, nextTmr_count rfl h, nextCmpf_count rfl h]
  simp

/-- Where nothing clears it, a set `pend` stays set (40_edge.md R102). -/
theorem background_pend_set {c : Config} {ir : Bool} {r : Regs} (h : r.pend = true) :
    (background c {} ir r).pend = true := by
  rw [background_pend, nextPend_hold rfl, h, Bool.or_true]

/-- The delay before a read (40_edge.md R105, 41_sampling.md R126): after `dcnt` cycles the counter is at 0 and only the counter, the
timer and the synchroniser have moved. The timer's clause is for a stretch with no compare event. -/
theorem delay_run (d : Nat) {s : State} (hc : s.cfg.wellFormed = true)
    (hf : s.regs.fsm = Fsm.confirm ∨ s.regs.fsm = Fsm.recheck) (hd : s.regs.dcnt = d) (hr : s.NoReset d) :
    ∃ t, cycles d s = .next t ∧ Ahead d s t ∧ Holds s t ∧ t.regs.dcnt = 0 ∧
      (s.regs.tmr + d < s.cfg.bitCycles → t.regs.tmr = s.regs.tmr + d ∧ t.regs.cmpf = s.regs.cmpf) := by
  induction d generalizing s with
  | zero => exact ⟨s, rfl, .refl s, .refl s, hd, fun _ => ⟨rfl, rfl⟩⟩
  | succ d ih =>
    have hs : step s = .next (clockEdge s {} (countDelay s.regs) none) := by
      rw [step_operation hc (hr.now (by omega))]
      obtain hf | hf := hf
      · rw [operation_confirm hf, if_neg (by omega)]; rfl
      · rw [operation_recheck hf, if_neg (by omega)]; rfl
    have ha : Ahead 1 s (clockEdge s {} (countDelay s.regs) none) := clockEdge_ahead _ _ _ _ (fun _ => rfl) (fun _ => rfl)
    have hh : Holds s (clockEdge s {} (countDelay s.regs) none) :=
      ⟨rfl, rfl, rfl, rfl, rfl, rfl, rfl, rfl, background_pend_set (c := s.cfg) (ir := s.input.ir), rfl⟩
    obtain ⟨t, ht, ga, gh, gd, gt⟩ := ih (s := clockEdge s {} (countDelay s.regs) none) hc hf
      (show s.regs.dcnt - 1 = d by omega) (ha.noReset (Nat.add_comm d 1 ▸ hr))
    refine ⟨t, by rw [cycles_succ hs, ht], Nat.add_comm 1 d ▸ ha.trans ga, hh.trans gh, gd, fun hB => ?_⟩
    obtain ⟨e1, e2⟩ := background_timer (c := s.cfg) (ir := s.input.ir) (r := s.regs) (by omega)
    have e1 : (clockEdge s {} (countDelay s.regs) none).regs.tmr = s.regs.tmr + 1 := e1
    have e2 : (clockEdge s {} (countDelay s.regs) none).regs.cmpf = s.regs.cmpf := e2
    obtain ⟨g1, g2⟩ := gt (by rw [e1]; show s.regs.tmr + 1 + d < s.cfg.bitCycles; omega)
    exact ⟨by rw [g1, e1]; omega, g2.trans e2⟩

/-- A cycle of the wait (41_sampling.md R123). -/
theorem wait_step {s : State} (hc : s.cfg.wellFormed = true) (hf : s.regs.fsm = Fsm.waitBit) (hm : s.regs.cmpf = false)
    (hr : s.input.rst = false) :
    ∃ t, step s = .next t ∧ Ahead 1 s t ∧ Holds s t ∧ t.regs.tmr = nextTmr s.cfg {} s.regs ∧
      t.regs.cmpf = nextCmpf s.cfg {} s.regs :=
  ⟨clockEdge s {} id none, by rw [step_operation hc hr, operation_waitBit hf, if_neg (by simp [hm])]; rfl,
    clockEdge_ahead _ _ _ _ (fun _ => rfl) (fun _ => rfl),
    ⟨rfl, rfl, rfl, rfl, rfl, rfl, rfl, rfl, background_pend_set (c := s.cfg) (ir := s.input.ir), rfl⟩, rfl, rfl⟩

/-- The wait for a compare event (41_sampling.md R123): with `n` cycles to the last of the timer's period, the flag is set and the timer
is at 0 after `n + 1` cycles. -/
theorem wait_run (n : Nat) {s : State} (hc : s.cfg.wellFormed = true) (hf : s.regs.fsm = Fsm.waitBit)
    (hm : s.regs.cmpf = false) (ht : s.regs.tmr + n + 1 = s.cfg.bitCycles) (hr : s.NoReset (n + 1)) :
    ∃ t, cycles (n + 1) s = .next t ∧ Ahead (n + 1) s t ∧ Holds s t ∧ t.regs.cmpf = true ∧ t.regs.tmr = 0 := by
  induction n generalizing s with
  | zero =>
    obtain ⟨t, hs, ha, hh, h1, h2⟩ := wait_step hc hf hm (hr.now (by omega))
    refine ⟨t, cycles_one hs, ha, hh, ?_, ?_⟩
    · rw [h2, nextCmpf_tick rfl (by omega)]
    · rw [h1, nextTmr_tick (by omega)]
  | succ n ih =>
    obtain ⟨u, hs, ha, hh, h1, h2⟩ := wait_step hc hf hm (hr.now (by omega))
    rw [nextTmr_count rfl (by omega)] at h1
    rw [nextCmpf_count rfl (by omega), hm, Bool.and_false] at h2
    obtain ⟨t, gt, ga, gh, g1, g2⟩ := ih (s := u) (by rw [ha.cfg, hc]) (by rw [hh.fsm, hf]) h2
      (by rw [h1, ha.cfg]; omega) (ha.noReset (Nat.add_comm (n + 1) 1 ▸ hr))
    exact ⟨t, by rw [cycles_succ hs, gt], Nat.add_comm 1 (n + 1) ▸ ha.trans ga, hh.trans gh, g1, g2⟩

end Sys2Proof.Machine
end

