-- ==== Sys2Proof/Tests/Slice0.lean ====
section
/-! SUPPORT. Tests on fixed values, and for each statement with hypotheses a state that meets them. Expected results come from
spec/95_test_vectors.md and from the words of spec/opcode_table.json. -/

namespace Sys2Proof.Tests

open Sys2Proof.Machine

/-! ## Well-formedness: each check refuses an ill-formed term -/

/-- The test configuration of 95_test_vectors.md. -/
def testConfig : Config := ⟨18000, 32, 2, 0x1800#14, 0x1000#14⟩

theorem test_defaults_18000 : Config.defaults 18000 = testConfig := by decide

/-- 00_scope.md R5: `CONF_CYCLES` defaults to `floor(BIT_CYCLES / 16)` of the `BIT_CYCLES` given, not of its default. -/
theorem test_default_confCycles : (Config.elaborated 18000 { bitCycles := some 64 }).confCycles = 4 ∧
    (Config.elaborated 18000 { bitCycles := some 64, confCycles := some 3 }).confCycles = 3 := by decide

theorem test_testConfig_wellFormed : testConfig.wellFormed = true ∧ testConfig.aligned = true := by decide

/-- 00_scope.md R6 condition 1. -/
theorem test_refuses_conf_zero : ({ testConfig with confCycles := 0 } : Config).wellFormed = false := by decide

/-- 00_scope.md R6 condition 2, one below the bound and at it. -/
theorem test_refuses_bit_below_bound : ({ testConfig with bitCycles := 5 } : Config).wellFormed = false ∧
    ({ testConfig with bitCycles := 6 } : Config).wellFormed = true := by decide

/-- 00_scope.md R6 condition 3. -/
theorem test_refuses_match_outside_mask : ({ testConfig with acceptMatch := 0x1001#14 } : Config).wellFormed = false := by decide

/-- 00_scope.md R6, the alignment condition, one below the bound and at it. -/
theorem test_alignment_bound : ({ testConfig with bitCycles := 25 } : Config).aligned = false ∧
    ({ testConfig with bitCycles := 26 } : Config).aligned = true := by decide

/-- A frame with S1 = 0 (30_encoding.md R70). -/
theorem test_refuses_frame_without_s1 : (Instr.rc5Accept false 0#5 8#6).wellFormed = false ∧
    (Instr.rc5RejectS2 false true 0#5 8#6).wellFormed = false ∧ (Instr.rc5RejectT false 0#5 8#6).wellFormed = false ∧
    (Instr.rc5Accept true 0#5 8#6).wellFormed = true := by decide

/-- The step refuses an ill-formed configuration by name (00_scope.md R6), reset or not. -/
theorem test_step_refuses_config :
    (match step (.resetWith { testConfig with confCycles := 0 } [⟨true, true⟩]) with
      | .refused r => r == .configNotWellFormed
      | _ => false) = true := by decide

/-! ## Decoding: words written out from the encodings of 30_encoding.md R76 and R70 -/

theorem test_decode_idle : decodeSelector 0b0000000000#10 = .idleWait ∧ decodeSelector 0b0000111111#10 = .idleWait ∧
    decodeSelector 0b0001000000#10 = .passEnter ∧ decodeSelector 0b0001111111#10 = .passEnter := by decide

theorem test_decode_confirm : decodeSelector 0b0010000000#10 = .confDelay ∧ decodeSelector 0b0011011111#10 = .confDelay ∧
    decodeSelector 0b0011110000#10 = .confNoise ∧ decodeSelector 0b0011100000#10 = .confNext ∧
    decodeSelector 0b0011100100#10 = .passStart := by decide

theorem test_decode_waitBit : decodeSelector 0b0101110111#10 = .bitWait ∧ decodeSelector 0b0101011000#10 = .bitZero ∧
    decodeSelector 0b0101001000#10 = .bitProbe := by decide

theorem test_decode_recheck : decodeSelector 0b0111011111#10 = .rchkDelay ∧ decodeSelector 0b0111110100#10 = .rchkZero ∧
    decodeSelector 0b0111100000#10 = .rchkNext ∧ decodeSelector 0b0111100100#10 = .rchkOne := by decide

theorem test_decode_validate : decodeSelector 0b1001100001#10 = .frameAccept ∧ decodeSelector 0b1001111110#10 = .frameReject := by
  decide

theorem test_decode_illegal : decodeSelector 0b1010000001#10 = .illegalState5 ∧ decodeSelector 0b1100000000#10 = .illegalState67 ∧
    decodeSelector 0b1110000000#10 = .illegalState67 := by decide

/-- S1 = 1, S2 = 1, T = 0, A = 00101, C = 111111: the frame 0x317F of 95_test_vectors.md V-S21. -/
theorem test_decode_rc5Accept : decodeFrame 0b11000101111111#14 = .rc5Accept true 5#5 63#6 := by decide

/-- S1 = 1, S2 = 0, T = 0, A = 0, C = 8: the frame 0x2008 of V-S23. -/
theorem test_decode_rc5RejectS2 : decodeFrame 0b10000000001000#14 = .rc5RejectS2 true false 0#5 8#6 := by decide

/-- S1 = 1, S2 = 1, T = 1, A = 0, C = 8: the frame 0x3808 of V-S22. -/
theorem test_decode_rc5RejectT : decodeFrame 0b11100000001000#14 = .rc5RejectT true 0#5 8#6 := by decide

/-- Words without a format (log 5). -/
theorem test_decodeTableWord : decodeTableWord 16 0 = some .idleWait ∧ decodeTableWord 16 0x201 = some .frameAccept ∧
    decodeTableWord 16 0x1000 = some (.rc5Accept false 0#5 0#6) ∧ decodeTableWord 14 0 = some (.rc5RejectS2 false false 0#5 0#6) ∧
    decodeTableWord 16 0x4000 = none ∧ decodeTableWord 10 0x400 = none := by decide

/-- Both widths a number can be too wide for are refused by name. -/
theorem test_decodeBits_errors : (match decodeBits 10 0x400, decodeBits 16 0x4000 with
    | .error a, .error b => a == .widerThanGiven && b == .widerThanFrame
    | _, _ => false) = true := by decide

/-! ## One cycle of every operation: the vectors of 95_test_vectors.md section 2.2 -/

/-- The test configuration with registers `r`, the line driven to `ir` in this cycle. -/
def start (ir : Bool) (r : Regs) : State := ⟨testConfig, r, 0, [⟨ir, false⟩], []⟩

/-- In registers `r` the operation is `i`, and one cycle leaves them as `change` says. -/
def runs (ir : Bool) (i : Instr) (r : Regs) (change : Regs → Regs) : Bool :=
  (start ir r).operation == i &&
    match step (start ir r) with
    | .next t => t.regs == change r && t.cycle == 1 && t.stim == []
    | _ => false

/-- 95_test_vectors.md V-S2. -/
theorem test_VS2_idleWait :
    runs true .idleWait { Regs.reset with fsm := 0#3, pend := false, s2 := false, s3 := true, s1 := false, tmr := 3 }
      (fun r => { r with s1 := true, s3 := false, pend := true, tmr := 4 }) = true := by decide

/-- 95_test_vectors.md V-S3. -/
theorem test_VS3_passEnter :
    runs true .passEnter { Regs.reset with fsm := 0#3, pend := true, tmr := 3 }
      (fun r => { r with fsm := 1#3, dcnt := 1, tmr := 4, kick := true }) = true := by decide

/-- 95_test_vectors.md V-S4. -/
theorem test_VS4_confDelay :
    runs true .confDelay { Regs.reset with fsm := 1#3, dcnt := 1, cidx := 0#2, pend := true, s2 := false, s3 := false, s1 := false }
      (fun r => { r with s1 := true, dcnt := 0, tmr := 1 }) = true := by decide

/-- 95_test_vectors.md V-S6. -/
theorem test_VS6_confNoise :
    runs true .confNoise { Regs.reset with fsm := 1#3, dcnt := 0, cidx := 0#2, pend := true, s2 := true, s3 := true, s1 := false }
      (fun r => { r with s1 := true, s2 := false, pend := false, fsm := 0#3, tmr := 1 }) = true := by decide

/-- 95_test_vectors.md V-S7. -/
theorem test_VS7_confNext :
    runs true .confNext { Regs.reset with fsm := 1#3, dcnt := 0, cidx := 0#2, pend := true, s2 := false, s3 := false, s1 := false }
      (fun r => { r with s1 := true, dcnt := 1, cidx := 1#2, tmr := 1 }) = true := by decide

/-- 95_test_vectors.md V-S8. -/
theorem test_VS8_confNext :
    runs true .confNext { Regs.reset with fsm := 1#3, dcnt := 0, cidx := 1#2, pend := true, s2 := false, s3 := false, s1 := false }
      (fun r => { r with s1 := true, dcnt := 1, cidx := 2#2, tmr := 1 }) = true := by decide

/-- 95_test_vectors.md V-S9. -/
theorem test_VS9_passStart :
    runs false .passStart { Regs.reset with fsm := 1#3, dcnt := 0, cidx := 2#2, pend := true, s2 := false, s3 := false, s1 := false, tmr := 31, cmpf := true, bcnt := 13#4, frame := 0x3fff#14 }
      (fun r => { r with fsm := 2#3, tmr := 0, cmpf := false, bcnt := 0#4, frame := 0x1#14 }) = true := by decide

/-- 95_test_vectors.md V-S10. -/
theorem test_VS10_bitWait :
    runs true .bitWait { Regs.reset with fsm := 2#3, cmpf := false, pend := true, tmr := 10, bcnt := 3#4, frame := 0xb#14 }
      (fun r => { r with tmr := 11 }) = true := by decide

/-- 95_test_vectors.md V-S11. -/
theorem test_VS11_bitWait :
    runs true .bitWait { Regs.reset with fsm := 2#3, cmpf := false, pend := true, tmr := 31, bcnt := 3#4, frame := 0xb#14 }
      (fun r => { r with tmr := 0, cmpf := true }) = true := by decide

/-- 95_test_vectors.md V-S13. -/
theorem test_VS13_bitZero :
    runs true .bitZero { Regs.reset with fsm := 2#3, cmpf := true, pend := true, s2 := true, tmr := 0, bcnt := 12#4, frame := 0xfff#14 }
      (fun r => { r with fsm := 4#3, tmr := 1, cmpf := false, bcnt := 13#4, frame := 0x1ffe#14 }) = true := by decide

/-- 95_test_vectors.md V-S14. -/
theorem test_VS14_bitProbe :
    runs false .bitProbe { Regs.reset with fsm := 2#3, cmpf := true, pend := true, s2 := false, s3 := false, s1 := false, tmr := 0, bcnt := 3#4, frame := 0xb#14, cidx := 2#2 }
      (fun r => { r with fsm := 3#3, dcnt := 1, cidx := 0#2, tmr := 1, cmpf := false }) = true := by decide

/-- 95_test_vectors.md V-S15. -/
theorem test_VS15_rchkDelay :
    runs false .rchkDelay { Regs.reset with fsm := 3#3, dcnt := 1, cidx := 0#2, pend := true, s2 := false, s3 := false, s1 := false, tmr := 1, bcnt := 3#4, frame := 0xb#14 }
      (fun r => { r with dcnt := 0, tmr := 2 }) = true := by decide

/-- 95_test_vectors.md V-S16. -/
theorem test_VS16_rchkNext :
    runs false .rchkNext { Regs.reset with fsm := 3#3, dcnt := 0, cidx := 0#2, pend := true, s2 := false, s3 := false, s1 := false, tmr := 2, bcnt := 3#4, frame := 0xb#14 }
      (fun r => { r with dcnt := 1, cidx := 1#2, tmr := 3 }) = true := by decide

/-- 95_test_vectors.md V-S17. -/
theorem test_VS17_rchkOne :
    runs false .rchkOne { Regs.reset with fsm := 3#3, dcnt := 0, cidx := 1#2, pend := true, s2 := false, s3 := false, s1 := false, tmr := 4, bcnt := 3#4, frame := 0xb#14 }
      (fun r => { r with fsm := 2#3, tmr := 5, bcnt := 4#4, frame := 0x17#14 }) = true := by decide

/-- 95_test_vectors.md V-S18. -/
theorem test_VS18_rchkOne :
    runs false .rchkOne { Regs.reset with fsm := 3#3, dcnt := 0, cidx := 1#2, pend := true, s2 := false, s3 := false, s1 := false, tmr := 4, bcnt := 12#4, frame := 0x1fff#14 }
      (fun r => { r with fsm := 4#3, tmr := 5, bcnt := 13#4, frame := 0x3fff#14 }) = true := by decide

/-- 95_test_vectors.md V-S19. -/
theorem test_VS19_rchkZero :
    runs true .rchkZero { Regs.reset with fsm := 3#3, dcnt := 0, cidx := 0#2, pend := true, s2 := true, s3 := false, s1 := true, tmr := 2, bcnt := 3#4, frame := 0xb#14 }
      (fun r => { r with s3 := true, fsm := 2#3, tmr := 3, bcnt := 4#4, frame := 0x16#14 }) = true := by decide

/-- 95_test_vectors.md V-S20. -/
theorem test_VS20_rchkZero :
    runs true .rchkZero { Regs.reset with fsm := 3#3, dcnt := 0, cidx := 1#2, pend := true, s2 := true, s3 := true, tmr := 4, bcnt := 12#4, frame := 0x1ffe#14 }
      (fun r => { r with fsm := 4#3, tmr := 5, bcnt := 13#4, frame := 0x3ffc#14 }) = true := by decide

/-- 95_test_vectors.md V-S21. -/
theorem test_VS21_frameAccept :
    runs true .frameAccept { Regs.reset with fsm := 4#3, pend := true, tmr := 6, bcnt := 13#4, frame := 0x317f#14, outCmd := 8#6, outAddr := 0#5, outFrame := 0x3008#14 }
      (fun r => { r with pend := false, fsm := 0#3, tmr := 7, outCmd := 63#6, outAddr := 5#5, outFrame := 0x317f#14, valid := true }) = true := by decide

/-- 95_test_vectors.md V-S22. -/
theorem test_VS22_frameReject :
    runs true .frameReject { Regs.reset with fsm := 4#3, pend := true, s2 := false, s3 := true, s1 := false, tmr := 6, bcnt := 13#4, frame := 0x3808#14, outCmd := 8#6, outFrame := 0x3008#14 }
      (fun r => { r with s1 := true, s3 := false, pend := false, fsm := 0#3, tmr := 7 }) = true := by decide

/-- 95_test_vectors.md V-S23. -/
theorem test_VS23_frameReject :
    runs true .frameReject { Regs.reset with fsm := 4#3, pend := true, tmr := 6, bcnt := 13#4, frame := 0x2008#14 }
      (fun r => { r with pend := false, fsm := 0#3, tmr := 7 }) = true := by decide

/-- 95_test_vectors.md V-S24. -/
theorem test_VS24_frameAccept :
    runs true .frameAccept { Regs.reset with fsm := 4#3, pend := true, tmr := 6, bcnt := 13#4, frame := 0x1000#14 }
      (fun r => { r with pend := false, fsm := 0#3, tmr := 7, outFrame := 0x1000#14, valid := true }) = true := by decide

/-- 95_test_vectors.md V-S25. -/
theorem test_VS25_illegalState5 :
    runs true .illegalState5 { Regs.reset with fsm := 5#3, pend := true, tmr := 6, frame := 0x1234#14 }
      (fun r => { r with pend := false, fsm := 0#3, tmr := 7 }) = true := by decide

/-- 95_test_vectors.md V-S26. -/
theorem test_VS26_illegalState67 :
    runs true .illegalState67 { Regs.reset with fsm := 7#3, pend := false, s2 := false, s3 := true, s1 := false, tmr := 6, frame := 0x1234#14 }
      (fun r => { r with s1 := true, s3 := false, fsm := 0#3, tmr := 7 }) = true := by decide

/-- 95_test_vectors.md V-S27. -/
theorem test_VS27_idleWait :
    runs true .idleWait { Regs.reset with fsm := 0#3, pend := false, valid := true, kick := false, outCmd := 8#6, outFrame := 0x3008#14, tmr := 5 }
      (fun r => { r with tmr := 6, valid := false }) = true := by decide

/-- 95_test_vectors.md V-S28. -/
theorem test_VS28_confNoise :
    runs true .confNoise { Regs.reset with fsm := 1#3, dcnt := 0, cidx := 0#2, pend := true, s2 := true, s3 := false, s1 := true, tmr := 5, kick := true }
      (fun r => { r with s3 := true, pend := false, fsm := 0#3, tmr := 6, kick := false }) = true := by decide

/-- 95_test_vectors.md V-S29. -/
theorem test_VS29_bitZero :
    runs true .bitZero { Regs.reset with fsm := 2#3, cmpf := true, pend := true, s2 := true, tmr := 31, bcnt := 3#4, frame := 0xb#14 }
      (fun r => { r with tmr := 0, bcnt := 4#4, frame := 0x16#14 }) = true := by decide

/-- The registers after the meaning of `i`, in a state with registers `r`. -/
def meaning (i : Instr) (r : Regs) : Option (Regs × List LogEntry) :=
  match exec i (start true r) with
  | .next t => some (t.regs, t.outcomes)
  | _ => none

/-- V-S21's frame as a frame word. -/
theorem test_rc5Accept : meaning (.rc5Accept true 5#5 63#6) { Regs.reset with fsm := 4#3, pend := true, tmr := 6 } =
    some ({ Regs.reset with tmr := 7, frame := 0x317f#14, outCmd := 63#6, outAddr := 5#5, outFrame := 0x317f#14, valid := true },
      [⟨0, .accept 0x317f#14⟩]) := by decide

/-- V-S23's frame as a frame word. -/
theorem test_rc5RejectS2 : meaning (.rc5RejectS2 true false 0#5 8#6) { Regs.reset with fsm := 4#3, pend := true, tmr := 6 } =
    some ({ Regs.reset with tmr := 7, frame := 0x2008#14 }, [⟨0, .reject 0x2008#14⟩]) := by decide

/-- V-S22's frame as a frame word. -/
theorem test_rc5RejectT : meaning (.rc5RejectT true 0#5 8#6) { Regs.reset with fsm := 4#3, pend := true, outCmd := 8#6 } =
    some ({ Regs.reset with tmr := 1, frame := 0x3808#14, outCmd := 8#6 }, [⟨0, .reject 0x3808#14⟩]) := by decide

/-- The outcomes of V-S6 and V-S25 (60_exceptions.md R160): noise at the first read, and the illegal code 5. -/
theorem test_outcomes : (meaning .confNoise { Regs.reset with fsm := 1#3 }).map (·.2) = some [⟨0, .noise 1⟩] ∧
    (meaning .illegalState5 { Regs.reset with fsm := 5#3 }).map (·.2) = some [⟨0, .illegal 5#3⟩] := by decide

/-- A reset edge (70_reset_and_hazards.md R180). -/
theorem test_reset_edge :
    (match step ⟨testConfig, { Regs.reset with fsm := 4#3, frame := 0x3008#14, pend := true }, 9, [⟨false, true⟩], []⟩ with
      | .next t => t.regs == Regs.reset && t.cycle == 10 && t.outcomes == []
      | _ => false) = true := by decide

/-- 20_memory.md R50: `busy` is 0 in IDLE and 1 in every other state, the illegal codes too. -/
theorem test_busy : (ports Regs.reset).busy = false ∧ (ports { Regs.reset with fsm := 1#3 }).busy = true ∧
    (ports { Regs.reset with fsm := 4#3 }).busy = true ∧ (ports { Regs.reset with fsm := 7#3 }).busy = true := by decide

/-- A placed word is run (log 6). -/
theorem test_placed_word : (State.reset.withFetchWord 16 0x0A4).operation = .passStart ∧
    (State.reset.withFetchWord 16 0x201).operation = .frameAccept ∧
    (State.reset.withFetchWord 16 0x3808).operation = .frameReject := by decide

/-! ## Witnesses

For each statement with hypotheses, a state and operands that meet all of them together. -/

/-- The smallest configuration: `BIT_CYCLES = 4`, `CONF_CYCLES = 1`, the default mask. -/
def smallConfig : Config := ⟨1, 4, 1, 0x1800#14, 0x1000#14⟩

/-- `smallConfig` with registers `r`, the line held at `ir` for 70 cycles. -/
def held (ir : Bool) (r : Regs) : State := ⟨smallConfig, r, 0, List.replicate 70 ⟨ir, false⟩, []⟩

theorem held_inputAt (ir : Bool) (r : Regs) {k : Nat} (hk : k < 70) : (held ir r).inputAt k = ⟨ir, false⟩ := by
  simp only [held, State.inputAt, List.getElem?_replicate, if_pos hk]

theorem held_noReset (ir : Bool) (r : Regs) {n : Nat} (hn : n ≤ 70) : (held ir r).NoReset n := by
  intro k hk
  rw [held_inputAt ir r (by omega)]

theorem held_lineAt (ir : Bool) (r : Regs) (h1 : r.s1 = ir) (h2 : r.s2 = ir) {k : Nat} (hk : k < 72) :
    (held ir r).lineAt k = ir := by
  match k with
  | 0 => exact h2
  | 1 => exact h1
  | k + 2 =>
    show ((held ir r).inputAt k).ir = ir
    rw [held_inputAt ir r (by omega)]

/-- A stream whose listed inputs hold no reset. -/
theorem noReset_of_list {s : State} (h : s.stim.all (fun i => !i.rst) = true) : s.NoReset s.stim.length := by
  intro k hk
  have e : s.inputAt k = s.stim[k] := by simp [State.inputAt, hk]
  rw [e]
  simpa using List.all_eq_true.mp h _ (List.getElem_mem hk)

/-- Registers of a pass in each state of the sequencer, as the invariant has them in `testConfig` and in `smallConfig`. -/
def inConfirm : Regs := { Regs.reset with fsm := 1#3, pend := true, kick := true }
def inWaitBit : Regs := { Regs.reset with fsm := 2#3, pend := true, frame := 1#14, tmr := 3 }
def inRecheck : Regs := { Regs.reset with fsm := 3#3, pend := true, frame := 1#14, tmr := 2, cidx := 1#2 }
def inValidate : Regs := { Regs.reset with fsm := 4#3, pend := true, bcnt := 13#4, frame := 0x3008#14 }
def inStrobe : Regs := { Regs.reset with bcnt := 13#4, frame := 0x3008#14, outCmd := 8#6, outFrame := 0x3008#14, valid := true }

/-- The invariant on concrete registers. -/
def invHolds (c : Config) (r : Regs) : Bool :=
  c.wellFormed && decide (r.dcnt < c.confCycles) && decide (r.tmr < c.bitCycles) && decide (r.cidx.toNat ≤ 2) &&
    decide (r.bcnt.toNat ≤ 13) && decide (r.fsm.toNat ≤ 4) && decide (r.fsm ≠ Fsm.idle → r.pend = true) &&
    decide (r.fsm = Fsm.waitBit ∨ r.fsm = Fsm.recheck → r.bcnt.toNat ≤ 12 ∧ r.frame.toNat / 2 ^ r.bcnt.toNat = 1) &&
    decide (r.fsm = Fsm.waitBit → r.cmpf = true → r.tmr = 0) &&
    decide (r.fsm = Fsm.recheck → r.cidx.toNat ≤ 1 ∧ r.cmpf = false ∧
      r.tmr + r.dcnt = (r.cidx.toNat + 1) * c.confCycles) &&
    decide (r.fsm = Fsm.validate → r.bcnt = 13#4 ∧ r.frame.getLsbD 13 = true ∧ r.cmpf = false) &&
    decide (r.valid = true → r.fsm = Fsm.idle ∧ r.pend = false ∧ accept c r.outFrame = true) &&
    decide (r.kick = true → r.fsm = Fsm.confirm) &&
    decide (r.outCmd = commandField r.outFrame ∧ r.outAddr = addressField r.outFrame ∧ r.outTog = toggleField r.outFrame)

theorem inv_of_invHolds {s : State} (h : invHolds s.cfg s.regs = true) : Inv s := by
  simp only [invHolds, Bool.and_eq_true, decide_eq_true_eq, and_assoc] at h
  obtain ⟨h1, h2, h3, h4, h5, h6, h7, h8, h9, h10, h11, h12, h13, h14⟩ := h
  exact ⟨h1, h2, h3, h4, h5, h6, h7, h8, h9, h10, h11, h12, h13, h14⟩

/-- The invariant in every state of a pass, in the strobe cycle and after reset. -/
theorem witness_Inv : Inv (held true inConfirm) ∧ Inv (held true inWaitBit) ∧ Inv (held true inRecheck) ∧
    Inv (held true inValidate) ∧ Inv (held true inStrobe) ∧ Inv (held true Regs.reset) := by
  refine ⟨?_, ?_, ?_, ?_, ?_, ?_⟩ <;> exact inv_of_invHolds (by decide)

/-- The step from every well-formed state is a next state. -/
theorem step_held (ir : Bool) (r : Regs) : ∃ t, step (held ir r) = .next t := by
  rw [step_operation (by exact (by decide : smallConfig.wellFormed = true)) (by rw [State.input, held_inputAt ir r (by omega)])]
  exact exec_completes _ _

theorem witness_ResetEdgeSetsEveryRegister :
    ∃ s : State, s.cfg.wellFormed = true ∧ s.input.rst = true :=
  ⟨.resetWith testConfig [⟨false, true⟩], by decide, by decide⟩

theorem witness_ResetStateHoldsResetValues : ∃ r : Regs, r = State.reset.regs := ⟨_, rfl⟩

/-- Both clauses: a configuration at the bounds of R6, and one that breaks each condition. -/
theorem witness_StepRefusesExactlyIllFormedConfigs :
    (∃ s : State, 1 ≤ s.cfg.confCycles ∧ 2 * s.cfg.confCycles + 2 ≤ s.cfg.bitCycles ∧
      s.cfg.acceptMatch &&& ~~~s.cfg.acceptMask = 0#14) ∧
    (∃ s : State, ¬1 ≤ s.cfg.confCycles) ∧ (∃ s : State, ¬2 * s.cfg.confCycles + 2 ≤ s.cfg.bitCycles) ∧
    ∃ s : State, ¬s.cfg.acceptMatch &&& ~~~s.cfg.acceptMask = 0#14 :=
  ⟨⟨.resetWith smallConfig [], by decide⟩, ⟨.resetWith { smallConfig with confCycles := 0 } [], by decide⟩,
    ⟨.resetWith { smallConfig with bitCycles := 3 } [], by decide⟩,
    ⟨.resetWith { smallConfig with acceptMatch := 1#14 } [], by decide⟩⟩

theorem witness_StepRunsSelectedOperation : ∃ s : State, s.cfg.wellFormed = true ∧ s.input.rst = false :=
  ⟨start true .reset, by decide, by decide⟩

theorem witness_SelectorWordHasExactlyItsRow :
    ∃ (w : BitVec 10) (i : Instr), isOperation i = true ∧ decodeSelector w = i := ⟨0x0A4#10, .passStart, by decide, by decide⟩

theorem witness_FrameHasExactlyOneClass : ∃ i : Instr, isOperation i = false := ⟨.rc5RejectT true 3#5 9#6, by decide⟩

theorem witness_DecodeOfEncodeIsIdentity : ∃ i : Instr, i.wellFormed = true ∧ isOperation i = false :=
  ⟨.rc5RejectS2 true true 31#5 63#6, by decide, by decide⟩

/-- Both clauses, with a mask of 0 and with the default mask. -/
theorem witness_PlacedWordIsRun :
    (∃ (s : State) (sel : BitVec 10), s.cfg.wellFormed = true ∧ s.cfg.acceptMask = 0#14 ∧ decodeSelector sel ≠ .frameReject) ∧
    (∃ (s : State) (sel : BitVec 10), s.cfg.wellFormed = true ∧ s.cfg.acceptMask ≠ 0#14 ∧ decodeSelector sel = .frameReject) ∧
    ∃ (s : State) (f : BitVec 14), s.cfg.wellFormed = true ∧ f.getLsbD 13 = true :=
  ⟨⟨.resetWith { testConfig with acceptMask := 0#14, acceptMatch := 0#14 } [], 0x201#10, by decide, by decide, by decide⟩,
    ⟨.reset, 0x200#10, by decide, by decide, by decide⟩, ⟨.reset, 0x2008#14, by decide, by decide⟩⟩

theorem witness_ValidateRunsTheFrameWord :
    ∃ s : State, s.cfg.wellFormed = true ∧ s.input.rst = false ∧ s.regs.fsm = 4#3 :=
  ⟨start true inValidate, by decide, by decide, by decide⟩

theorem witness_WaitingOperationsResult :
    (∃ i : Instr, (i = .idleWait ∨ i = .bitWait) ∧ i = .idleWait) ∧ ∃ i : Instr, (i = .idleWait ∨ i = .bitWait) ∧ i = .bitWait :=
  ⟨⟨_, .inl rfl, rfl⟩, ⟨_, .inr rfl, rfl⟩⟩

/-- Each instruction, with the premise of its result and in a state that premise leaves out. -/
theorem witness_DelayOperationsResult :
    (∃ (s : State) (i : Instr), i = .confDelay ∧ s.regs.dcnt ≠ 0) ∧ (∃ (s : State) (i : Instr), i = .rchkDelay ∧ s.regs.dcnt ≠ 0) ∧
    ∃ (s : State) (i : Instr), i = .confDelay ∧ s.regs.dcnt = 0 ∧ s.operation = .confNoise :=
  ⟨⟨start true { Regs.reset with dcnt := 1 }, _, rfl, by decide⟩, ⟨start true { Regs.reset with dcnt := 1 }, _, rfl, by decide⟩,
    ⟨start true { Regs.reset with fsm := 1#3 }, _, rfl, rfl, by decide⟩⟩

/-- Both clauses, CONF_NEXT at each index it meets. -/
theorem witness_NextReadOperationsResult :
    (∃ (s : State) (i : Instr) (index : BitVec 2), i = .confNext ∧ index = s.regs.cidx + 1#2 ∧ index = 1#2) ∧
    (∃ (s : State) (i : Instr) (index : BitVec 2), i = .confNext ∧ index = s.regs.cidx + 1#2 ∧ index = 2#2) ∧
    ∃ (i : Instr) (index : BitVec 2), i = .rchkNext ∧ index = 1#2 :=
  ⟨⟨start true .reset, _, _, rfl, rfl, by decide⟩, ⟨start true { Regs.reset with cidx := 1#2 }, _, _, rfl, rfl, by decide⟩,
    ⟨_, _, rfl, rfl⟩⟩

theorem witness_BitResolvingOperationsResult :
    (∃ (i : Instr) (bit : BitVec 14) (consumed : Bool), i = .bitZero ∧ bit = 0#14 ∧ consumed = true) ∧
    (∃ (i : Instr) (bit : BitVec 14) (consumed : Bool), i = .rchkZero ∧ bit = 0#14 ∧ consumed = false) ∧
    ∃ (i : Instr) (bit : BitVec 14) (consumed : Bool), i = .rchkOne ∧ bit = 1#14 ∧ consumed = false :=
  ⟨⟨_, _, _, rfl, rfl, rfl⟩, ⟨_, _, _, rfl, rfl, rfl⟩, ⟨_, _, _, rfl, rfl, rfl⟩⟩

theorem witness_IllegalStateResult :
    (∃ i : Instr, (i = .illegalState5 ∨ i = .illegalState67) ∧ i = .illegalState5) ∧
    ∃ i : Instr, (i = .illegalState5 ∨ i = .illegalState67) ∧ i = .illegalState67 :=
  ⟨⟨_, .inl rfl, rfl⟩, ⟨_, .inr rfl, rfl⟩⟩

/-- Each class, accepted and not (a class of its own does not decide it under a mask of 0 or under another match). -/
theorem witness_FrameWordsResult :
    (∃ (s : State) (i : Instr) (f : BitVec 14), i = .rc5Accept true 5#5 63#6 ∧ f = frameOfFields true true false 5#5 63#6 ∧
      f &&& s.cfg.acceptMask = s.cfg.acceptMatch) ∧
    (∃ (s : State) (i : Instr) (f : BitVec 14), i = .rc5RejectS2 true true 0#5 8#6 ∧ f = frameOfFields true false true 0#5 8#6 ∧
      f &&& s.cfg.acceptMask ≠ s.cfg.acceptMatch) ∧
    ∃ (s : State) (i : Instr) (f : BitVec 14), i = .rc5RejectT true 0#5 8#6 ∧ f = frameOfFields true true true 0#5 8#6 ∧
      f &&& s.cfg.acceptMask ≠ s.cfg.acceptMatch :=
  ⟨⟨start true .reset, _, _, rfl, rfl, by decide⟩, ⟨start true .reset, _, _, rfl, rfl, by decide⟩,
    ⟨start true .reset, _, _, rfl, rfl, by decide⟩⟩

theorem witness_BackgroundUpdatesEveryCycle : ∃ i : Instr, isOperation i = true := ⟨.bitZero, by decide⟩

/-- Operations on both sides of each column's clause: each strobe's own, a pass-ending one, PASS_START, a consuming one, and one that the
map marks nowhere. -/
theorem witness_WriteMapIsComplete : ∀ i ∈ [Instr.frameAccept, .passEnter, .confNoise, .passStart, .bitProbe, .idleWait],
    isOperation i = true := by decide

theorem witness_OutcomeLogRecordsPassEnds : ∃ s t : State, step s = .next t ∧ s.operation = .frameAccept :=
  ⟨held true inValidate, _, (step_held true inValidate).choose_spec, by decide⟩

theorem witness_ConfigurationNeverChanges : ∃ s t : State, step s = .next t :=
  ⟨held true Regs.reset, _, (step_held true Regs.reset).choose_spec⟩

/-- Every clause: FRAME_ACCEPT, with its strobe, and another operation. -/
theorem witness_OutputsChangeOnlyWithStrobe :
    (∃ s t : State, s.input.rst = false ∧ step s = .next t ∧ s.operation = .frameAccept ∧ t.regs.valid = true) ∧
    ∃ s t : State, s.input.rst = false ∧ step s = .next t ∧ s.operation ≠ .frameAccept ∧ s.regs.outFrame ≠ 0#14 :=
  ⟨⟨start true inValidate, _, by decide, rfl, by decide, rfl⟩, ⟨start true inStrobe, _, by decide, rfl, by decide, by decide⟩⟩

/-- With the operation that ends the pass, and with one that does not. -/
theorem witness_PendIsNotReadDuringPass :
    (∃ s : State, s.cfg.wellFormed = true ∧ s.regs.fsm ≠ 0#3 ∧ endsPass s.operation = true) ∧
    ∃ s : State, s.cfg.wellFormed = true ∧ s.regs.fsm ≠ 0#3 ∧ endsPass s.operation = false :=
  ⟨⟨start true inValidate, by decide, by decide, by decide⟩, ⟨start true inWaitBit, by decide, by decide, by decide⟩⟩

/-- Two different machines the outside cannot tell apart: in IDLE every register of the last pass is hidden. -/
theorem witness_HiddenRegistersStayUnobservable : ∃ s t : State, Indistinguishable s t ∧ s ≠ t :=
  ⟨start true .reset, start true { Regs.reset with dcnt := 1, cidx := 2#2, tmr := 9, cmpf := true, bcnt := 13#4, frame := 0x3008#14 },
    ⟨rfl, rfl, rfl, rfl, ⟨rfl, rfl, rfl, rfl, rfl, rfl, by decide, by decide, by decide⟩⟩, by decide⟩

theorem witness_InvariantHoldsAtReset : ∃ c : Config, c.wellFormed = true := ⟨smallConfig, by decide⟩

/-- One state of each kind the invariant speaks of, with its step. -/
theorem witness_EveryStepKeepsInvariant :
    (∃ s t : State, Inv s ∧ step s = .next t ∧ s.regs.fsm = Fsm.confirm) ∧
    (∃ s t : State, Inv s ∧ step s = .next t ∧ s.regs.fsm = Fsm.waitBit) ∧
    (∃ s t : State, Inv s ∧ step s = .next t ∧ s.regs.fsm = Fsm.recheck) ∧
    (∃ s t : State, Inv s ∧ step s = .next t ∧ s.regs.fsm = Fsm.validate) ∧
    ∃ s t : State, Inv s ∧ step s = .next t ∧ s.regs.valid = true :=
  ⟨⟨_, _, witness_Inv.1, (step_held _ _).choose_spec, rfl⟩, ⟨_, _, witness_Inv.2.1, (step_held _ _).choose_spec, rfl⟩,
    ⟨_, _, witness_Inv.2.2.1, (step_held _ _).choose_spec, rfl⟩, ⟨_, _, witness_Inv.2.2.2.1, (step_held _ _).choose_spec, rfl⟩,
    ⟨_, _, witness_Inv.2.2.2.2.1, (step_held _ _).choose_spec, rfl⟩⟩

/-- At the top of the timer's range. -/
theorem witness_CountersFitTheirWidths : ∃ s t : State, Inv s ∧ step s = .next t ∧ s.regs.tmr = s.cfg.bitCycles - 1 :=
  ⟨_, _, witness_Inv.2.1, (step_held _ _).choose_spec, rfl⟩

/-- Every clause: a cycle without reset, WAIT_BIT in the last cycle of the timer's period, RECHECK, and VALIDATE in the cycle a compare
event falls, at the least `BIT_CYCLES` of 00_scope.md R6. -/
theorem witness_NoCompareEventIsLost :
    (∃ s : State, Inv s ∧ s.input.rst = false ∧ s.regs.fsm = 2#3 ∧ s.regs.tmr = s.cfg.bitCycles - 1) ∧
    (∃ s : State, Inv s ∧ s.regs.fsm = 3#3) ∧
    ∃ s : State, Inv s ∧ s.regs.fsm = 4#3 ∧ s.regs.tmr = s.cfg.bitCycles - 1 ∧
      s.cfg.bitCycles = 2 * s.cfg.confCycles + 2 :=
  ⟨⟨_, witness_Inv.2.1, held_noReset true inWaitBit (n := 1) (by decide) 0 (by decide), rfl, rfl⟩, ⟨_, witness_Inv.2.2.1, rfl⟩,
    ⟨held true { inValidate with tmr := 3 }, inv_of_invHolds (by decide), rfl, rfl, rfl⟩⟩

/-- Both clauses: a frame strobe and a pass-start pulse. -/
theorem witness_StrobesLastOneCycle :
    (∃ s t u : State, Inv s ∧ step s = .next t ∧ step t = .next u ∧ t.regs.valid = true) ∧
    ∃ s t u : State, Inv s ∧ step s = .next t ∧ step t = .next u ∧ t.regs.kick = true :=
  ⟨⟨⟨testConfig, inValidate, 0, List.replicate 2 ⟨true, false⟩, []⟩, _, _, inv_of_invHolds (by decide), rfl, rfl, rfl⟩,
    ⟨⟨testConfig, { Regs.reset with pend := true }, 0, List.replicate 2 ⟨true, false⟩, []⟩, _, _, inv_of_invHolds (by decide),
      rfl, rfl, rfl⟩⟩

/-- Every clause: a strobe in the next cycle, a reset, and a toggle output of 0 to keep. -/
theorem witness_ToggleStaysZeroUnderDefaultMask :
    (∃ s t : State, s.cfg.acceptMask = 0x1800#14 ∧ s.cfg.acceptMatch = 0x1000#14 ∧ step s = .next t ∧
      (ports t.regs).frameValid = true ∧ (ports s.regs).toggle = false) ∧
    ∃ s t : State, s.cfg.acceptMask = 0x1800#14 ∧ s.cfg.acceptMatch = 0x1000#14 ∧ step s = .next t ∧ s.input.rst = true :=
  ⟨⟨start true inValidate, _, rfl, rfl, rfl, rfl, rfl⟩,
    ⟨⟨testConfig, { inValidate with outTog := true }, 0, [⟨true, true⟩], []⟩, _, rfl, rfl, rfl, rfl⟩⟩

theorem witness_DefaultMaskAcceptsExactlyClassAccept :
    ∃ c : Config, c.acceptMask = 0x1800#14 ∧ c.acceptMatch = 0x1000#14 := ⟨testConfig, rfl, rfl⟩

/-- Every parameter given, none given (at the boundary: a clock of 9 kHz gives a cell of exactly 16 cycles), and only `BIT_CYCLES`
given. -/
theorem witness_DefaultConfigIsWellFormedAndAligned :
    (∃ given : Config.Given, given = ⟨some 32, some 2, some 0x1000#14, some 0x1000#14⟩) ∧
    (∃ (hz : PNat) (b : Option Nat), 16 ≤ (Config.elaborated hz { bitCycles := b }).bitCycles ∧ b = none ∧
      (Config.elaborated hz { bitCycles := b }).bitCycles = 16) ∧
    ∃ (hz : PNat) (b : Option Nat), 16 ≤ (Config.elaborated hz { bitCycles := b }).bitCycles ∧ b = some 16 :=
  ⟨⟨_, rfl⟩, ⟨9000, none, by decide, rfl, by decide⟩, ⟨1, some 16, by decide, rfl⟩⟩

theorem witness_LineFollowsInputTwoCyclesLater : ∃ (s : State) (k : Nat), s.cfg.wellFormed = true ∧ s.NoReset (k + 2) :=
  ⟨held false Regs.reset, 5, by decide, held_noReset _ _ (by decide)⟩

theorem witness_PassStartsThreeCyclesAfterFirstLow :
    ∃ s : State, s.cfg.wellFormed = true ∧ s.NoReset 3 ∧ s.regs.fsm = 0#3 ∧ s.regs.pend = false ∧ s.regs.s1 = true ∧
      s.regs.s2 = true ∧ s.regs.s3 = true ∧ (s.inputAt 0).ir = false :=
  ⟨held false Regs.reset, by decide, held_noReset _ _ (by decide), rfl, rfl, rfl, rfl, rfl, by decide⟩

/-- `smallConfig` (`CONF_CYCLES = 1`) idle, a low pulse of `n` cycles starting now. -/
def pulse (n : Nat) : State :=
  ⟨smallConfig, .reset, 0, [⟨false, false⟩, ⟨n ≤ 1, false⟩, ⟨n ≤ 2, false⟩, ⟨n ≤ 3, false⟩, ⟨n ≤ 4, false⟩, ⟨true, false⟩, ⟨true, false⟩], []⟩

theorem pulse_levels (n : Nat) (h1 : 1 ≤ n) (h5 : n ≤ 5) :
    (pulse n).NoReset (3 * (pulse n).cfg.confCycles + 4) ∧ (∀ k, k < n → ((pulse n).inputAt k).ir = false) ∧
      ∀ k, n ≤ k → k ≤ 3 * (pulse n).cfg.confCycles + 1 → ((pulse n).inputAt k).ir = true := by
  refine ⟨noReset_of_list (s := pulse n) rfl, ?_, ?_⟩
  · intro k hk
    have : k < 5 := by omega
    interval_cases n <;> interval_cases k <;> rfl
  · intro k hn hk
    have hk : k ≤ 4 := hk
    interval_cases n <;> interval_cases k <;> rfl

/-- Each clause at its boundaries: pulses of 1 and 2 cycles fail the first read, 3 the second, 4 the third, and 5 pass. -/
theorem witness_LowPulseIsConfirmedByItsLength : ∀ n, 1 ≤ n → n ≤ 5 →
    (pulse n).cfg.wellFormed = true ∧ (pulse n).NoReset (3 * (pulse n).cfg.confCycles + 4) ∧ (pulse n).regs.fsm = 0#3 ∧
      (pulse n).regs.pend = false ∧ (pulse n).regs.s1 = true ∧ (pulse n).regs.s2 = true ∧ (pulse n).regs.s3 = true ∧
      (∀ k, k < n → ((pulse n).inputAt k).ir = false) ∧
      (∀ k, n ≤ k → k ≤ 3 * (pulse n).cfg.confCycles + 1 → ((pulse n).inputAt k).ir = true) ∧
      (n ≤ 2 → n < 1 * (pulse n).cfg.confCycles + 2) ∧
      (n = 3 → n < 2 * (pulse n).cfg.confCycles + 2 ∧ (2 - 1) * (pulse n).cfg.confCycles + 2 ≤ n) ∧
      (n = 4 → n < 3 * (pulse n).cfg.confCycles + 2 ∧ (3 - 1) * (pulse n).cfg.confCycles + 2 ≤ n) ∧
      (n = 5 → 3 * (pulse n).cfg.confCycles + 2 ≤ n) := by
  intro n h1 h5
  obtain ⟨hr, hl, hh⟩ := pulse_levels n h1 h5
  have e : (pulse n).cfg.confCycles = 1 := rfl
  refine ⟨(by decide : smallConfig.wellFormed = true), hr, rfl, rfl, rfl, rfl, rfl, hl, hh, ?_, ?_, ?_, ?_⟩ <;> rw [e] <;> omega

/-- Both implications: two equal encodings, and a program with every item but `RST`. -/
theorem witness_StimulusEncodingIsFaithful :
    (∃ x y : List Input, encodeStimulus x = encodeStimulus y ∧ x ≠ []) ∧
    ∃ (c : Config) (program : List StimulusItem) (x : List Input), stimulusInputs c program = some x ∧
      (∀ n, .reset n ∉ program) ∧ x.length = 63 :=
  ⟨⟨[⟨true, true⟩, ⟨false, false⟩], _, rfl, by decide⟩,
    ⟨smallConfig, [.high 2, .low 1, .bit false, .frame true false 0#5 8#6], _, rfl, by simp, by decide⟩⟩

/-- An even `BIT_CYCLES`, two programs one after the other, two runs side by side, and a listed cycle. -/
theorem witness_StimulusItemsExpand :
    (∃ c : Config, c.bitCycles % 2 = 0) ∧
    (∃ (c : Config) (p q : List StimulusItem) (x y : List Input), stimulusInputs c p = some x ∧ stimulusInputs c q = some y ∧
      x ≠ [] ∧ y ≠ []) ∧
    (∃ (x : List Input) (k : Nat) (a b : Bool × Nat), (encodeStimulus x).runs[k]? = some a ∧
      (encodeStimulus x).runs[k + 1]? = some b) ∧
    ∃ (x : List Input) (k : Nat) (i : Input), x[k]? = some i :=
  ⟨⟨testConfig, by decide⟩, ⟨smallConfig, [.high 1], [.bit true, .reset 1], _, _, rfl, rfl, by decide, by decide⟩,
    ⟨[⟨true, false⟩, ⟨true, false⟩, ⟨false, false⟩], 0, _, _, rfl, rfl⟩, ⟨[⟨true, false⟩], 0, _, rfl⟩⟩

/-- 30_encoding.md R80, R81: `H 2 ; RST 1 ; BIT 0` at `BIT_CYCLES = 4` merges the two runs of level 1 (the cycles counted by hand). -/
theorem test_stimulus_encoding : (stimulusInputs smallConfig [.high 2, .reset 1, .bit false]).map encodeStimulus =
    some ⟨[(true, 3), (false, 2), (true, 2)], [2]⟩ := by decide

/-- The last cycle of the last cell, and the first of its second half. -/
theorem witness_FrameWaveformIsManchester :
    (∃ (c : Config) (k j : Nat), c.bitCycles % 2 = 0 ∧ k < 14 ∧ j < c.bitCycles ∧ k = 13 ∧ j = c.bitCycles - 1) ∧
    ∃ (c : Config) (k j : Nat), c.bitCycles % 2 = 0 ∧ k < 14 ∧ j < c.bitCycles ∧ j = c.bitCycles / 2 :=
  ⟨⟨testConfig, 13, 31, by decide⟩, ⟨testConfig, 0, 16, by decide⟩⟩

/-- Registers in which the next cycle is PASS_ENTER, with a line low (or high) up to now. -/
def entering (level : Bool) : Regs := { Regs.reset with pend := true, s1 := level, s2 := level, s3 := level }

/-- `smallConfig` about to enter a pass, the line low but for the reads `k` and later (reads come 1, 2 and 3 cycles from now). -/
def noiseAt (k : Nat) : State :=
  ⟨smallConfig, { entering false with s1 := k == 1 }, 0,
    [⟨k == 2, false⟩, ⟨k == 3, false⟩, ⟨false, false⟩, ⟨false, false⟩, ⟨false, false⟩], []⟩

/-- Every clause: noise at the first, second and third read, and three low reads. -/
theorem witness_ConfirmationDecidesAtThreeReads :
    (∀ k, k < 5 → (noiseAt k).cfg.wellFormed = true ∧ (noiseAt k).regs.fsm = 0#3 ∧ (noiseAt k).regs.pend = true ∧
      (noiseAt k).NoReset (3 * (noiseAt k).cfg.confCycles + 1)) ∧
    (noiseAt 1).lineAt 1 = true ∧
    (noiseAt 2).lineAt 1 = false ∧ (noiseAt 2).lineAt 2 = true ∧
    (noiseAt 3).lineAt 1 = false ∧ (noiseAt 3).lineAt 2 = false ∧ (noiseAt 3).lineAt 3 = true ∧
    (noiseAt 4).lineAt 1 = false ∧ (noiseAt 4).lineAt 2 = false ∧ (noiseAt 4).lineAt 3 = false := by
  refine ⟨fun k _ => ⟨(by decide : smallConfig.wellFormed = true), rfl, rfl, ?_⟩, by decide, by decide, by decide, by decide, by decide, by decide, by decide, by decide,
    by decide⟩
  exact (noReset_of_list (s := noiseAt k) rfl).mono (by exact (by decide : 4 ≤ 5))

/-- With a bit resolved to 1 and one resolved to 0. -/
theorem witness_BitIsResolvedFromItsThreeReads :
    ∃ s : State, s.cfg.wellFormed = true ∧ s.regs.fsm = 2#3 ∧ s.regs.cmpf = false ∧ s.regs.tmr < s.cfg.bitCycles ∧
      s.NoReset (s.cfg.bitCycles - s.regs.tmr + 2 * s.cfg.confCycles + 1) ∧ s.bitReadAt (s.cfg.bitCycles - s.regs.tmr) = true :=
  ⟨held false { inWaitBit with s1 := false, s2 := false }, by decide, rfl, rfl, by decide, held_noReset _ _ (by decide), by decide⟩

theorem witness_BitIsResolvedFromItsThreeReads_zero :
    ∃ s : State, s.cfg.wellFormed = true ∧ s.regs.fsm = 2#3 ∧ s.regs.cmpf = false ∧ s.regs.tmr < s.cfg.bitCycles ∧
      s.NoReset (s.cfg.bitCycles - s.regs.tmr + 2 * s.cfg.confCycles + 1) ∧ s.bitReadAt (s.cfg.bitCycles - s.regs.tmr) = false :=
  ⟨held true { inWaitBit with tmr := 0 }, by decide, rfl, rfl, by decide, held_noReset _ _ (by decide), by decide⟩

/-- Registers right after PASS_START, with the line at one level. -/
def started (level : Bool) : Regs := { Regs.reset with fsm := 2#3, pend := true, frame := 1#14, s1 := level, s2 := level, s3 := level }

/-- A pass whose frame is accepted (the mask compares nothing) and one whose frame is not. -/
theorem witness_PassAssemblesFrameFromReadPoints :
    (∃ s : State, s.cfg.wellFormed = true ∧ s.regs.fsm = 2#3 ∧ s.regs.cmpf = false ∧ s.regs.tmr = 0 ∧ s.regs.bcnt = 0#4 ∧
      s.regs.frame = 1#14 ∧ s.NoReset (13 * s.cfg.bitCycles + 2 * s.cfg.confCycles + 2) ∧
      accept s.cfg (s.assembledFrame 13) = true) ∧
    ∃ s : State, s.cfg.wellFormed = true ∧ s.regs.fsm = 2#3 ∧ s.regs.cmpf = false ∧ s.regs.tmr = 0 ∧ s.regs.bcnt = 0#4 ∧
      s.regs.frame = 1#14 ∧ s.NoReset (13 * s.cfg.bitCycles + 2 * s.cfg.confCycles + 2) ∧
      accept s.cfg (s.assembledFrame 13) = false :=
  ⟨⟨{ held true (started true) with cfg := { smallConfig with acceptMask := 0#14, acceptMatch := 0#14 } }, by decide, rfl, rfl, rfl,
      rfl, rfl, (held_noReset true (started true) (n := 56) (by decide)), by decide⟩,
    ⟨held true (started true), by decide, rfl, rfl, rfl, rfl, rfl, held_noReset _ _ (by decide), by decide⟩⟩

/-- Both clauses: a line that stays high and one that stays low. -/
theorem witness_DeadLinesGiveRejectedFrames :
    (∃ s : State, s.cfg.wellFormed = true ∧ s.cfg.acceptMask = 0x1800#14 ∧ s.cfg.acceptMatch = 0x1000#14 ∧ s.regs.fsm = 2#3 ∧
      s.regs.cmpf = false ∧ s.regs.tmr = 0 ∧ s.regs.bcnt = 0#4 ∧ s.regs.frame = 1#14 ∧
      s.NoReset (13 * s.cfg.bitCycles + 2 * s.cfg.confCycles + 2) ∧
      ∀ k, s.cfg.bitCycles ≤ k → k ≤ 13 * s.cfg.bitCycles → s.lineAt k = true) ∧
    ∃ s : State, s.cfg.wellFormed = true ∧ s.cfg.acceptMask = 0x1800#14 ∧ s.cfg.acceptMatch = 0x1000#14 ∧ s.regs.fsm = 2#3 ∧
      s.regs.cmpf = false ∧ s.regs.tmr = 0 ∧ s.regs.bcnt = 0#4 ∧ s.regs.frame = 1#14 ∧
      s.NoReset (13 * s.cfg.bitCycles + 2 * s.cfg.confCycles + 2) ∧
      ∀ k, s.cfg.bitCycles ≤ k → k ≤ 13 * s.cfg.bitCycles + 2 * s.cfg.confCycles → s.lineAt k = false :=
  ⟨⟨held true (started true), by decide, rfl, rfl, rfl, rfl, rfl, rfl, rfl, held_noReset _ _ (by decide), fun k _ hk =>
      held_lineAt true _ rfl rfl (Nat.lt_of_le_of_lt hk (by decide))⟩,
    ⟨held false (started false), by decide, rfl, rfl, rfl, rfl, rfl, rfl, rfl, held_noReset _ _ (by decide), fun k _ hk =>
      held_lineAt false _ rfl rfl (Nat.lt_of_le_of_lt hk (by decide))⟩⟩

/-- An even, aligned configuration: `BIT_CYCLES = 16`, `CONF_CYCLES = 1` (95_test_vectors.md V-T4 uses it too). -/
def alignedConfig : Config := ⟨9000, 16, 1, 0x1800#14, 0x1000#14⟩

/-- After reset, sent a whole frame and three idle cycles. -/
def sent (f : BitVec 14) : State := .resetWith alignedConfig (frameInputs alignedConfig f ++ List.replicate 3 ⟨true, false⟩)

theorem sent_inputAt (f : BitVec 14) (k : Nat) (i : Input) (h : (frameInputs alignedConfig f)[k]? = some i) :
    (sent f).inputAt k = i := by
  have hk : k < (frameInputs alignedConfig f).length := (List.getElem?_eq_some_iff.mp h).1
  have e : (sent f).stim[k]? = some i := by
    show (frameInputs alignedConfig f ++ List.replicate 3 ⟨true, false⟩)[k]? = some i
    rw [List.getElem?_append_left hk, h]
  simp only [State.inputAt, e]

/-- The hypotheses of frame correctness, for a frame. -/
def SentHypotheses (s : State) (f : BitVec 14) : Prop :=
  s.cfg.wellFormed = true ∧ s.cfg.aligned = true ∧ s.cfg.bitCycles % 2 = 0 ∧ s.regs.fsm = 0#3 ∧ s.regs.pend = false ∧
    s.regs.s1 = true ∧ s.regs.s2 = true ∧ s.regs.s3 = true ∧
    (∀ k i, (frameInputs s.cfg f)[k]? = some i → s.inputAt k = i) ∧ s.NoReset (14 * s.cfg.bitCycles + 3)

theorem frameInputs_length (f : BitVec 14) : (frameInputs alignedConfig f).length = 224 := by
  simp only [frameInputs, sentBits, cellInputs, alignedConfig, List.length_flatMap, List.map_map, List.length_append,
    List.length_replicate]
  rfl

theorem sent_hypotheses (f : BitVec 14) : SentHypotheses (sent f) f := by
  refine ⟨(by decide : alignedConfig.wellFormed = true), (by decide : alignedConfig.aligned = true),
    (by decide : alignedConfig.bitCycles % 2 = 0), rfl, rfl, rfl, rfl, rfl, sent_inputAt f, fun k hk => ?_⟩
  have hk : k < 227 := hk
  have hl := frameInputs_length f
  by_cases h : k < 224
  · rw [sent_inputAt f k _ (List.getElem?_eq_getElem (by omega))]
    exact frameInputs_noReset (List.getElem_mem _)
  · have e : (sent f).stim[k]? = some ⟨true, false⟩ := by
      show (frameInputs alignedConfig f ++ List.replicate 3 ⟨true, false⟩)[k]? = some ⟨true, false⟩
      rw [List.getElem?_append_right (by omega), List.getElem?_replicate, if_pos (by omega)]
    simp only [State.inputAt, e]

/-- An accepted frame (`c[0] = 1`) and a rejected one (`c[0] = 0`). -/
theorem witness_SentFrameIsDecodedExactly :
    (∃ s, SentHypotheses s (frameOfFields true true false 5#5 63#6) ∧
      accept s.cfg (frameOfFields true true false 5#5 63#6) = true) ∧
    ∃ s, SentHypotheses s (frameOfFields true true true 0#5 8#6) ∧ accept s.cfg (frameOfFields true true true 0#5 8#6) = false :=
  ⟨⟨_, sent_hypotheses _, (by decide : accept alignedConfig _ = true)⟩, ⟨_, sent_hypotheses _, (by decide : accept alignedConfig _ = false)⟩⟩

/-- From each running state of the sequencer. -/
theorem witness_PassAlwaysEnds : ∀ r ∈ [inConfirm, inWaitBit, inRecheck, inValidate],
    Inv (held true r) ∧ (held true r).regs.fsm ≠ 0#3 ∧
      (held true r).NoReset (13 * (held true r).cfg.bitCycles + 5 * (held true r).cfg.confCycles + 2) := by
  intro r hr
  refine ⟨?_, ?_, held_noReset true r (by exact (by decide : 13 * 4 + 5 * 1 + 2 ≤ 70))⟩
  · simp only [List.mem_cons, List.not_mem_nil, or_false] at hr
    obtain rfl | rfl | rfl | rfl := hr
    exacts [witness_Inv.1, witness_Inv.2.1, witness_Inv.2.2.1, witness_Inv.2.2.2.1]
  · simp only [List.mem_cons, List.not_mem_nil, or_false] at hr
    obtain rfl | rfl | rfl | rfl := hr <;> exact (by decide)

/-- Both clauses: one cycle after a strobe, and reset itself. -/
theorem witness_StrobesKeepTheirDistance :
    (∃ (s t : State) (n : Nat), Inv s ∧ s.regs.valid = true ∧ 1 ≤ n ∧ n < 13 * s.cfg.bitCycles + 3 * s.cfg.confCycles + 4 ∧
      cycles n s = .next t) ∧
    ∃ (c : Config) (stim : List Input) (t : State) (n : Nat), c.wellFormed = true ∧
      n < 13 * c.bitCycles + 3 * c.confCycles + 6 ∧ cycles n (.resetWith c stim) = .next t :=
  ⟨⟨held true inStrobe, _, 1, witness_Inv.2.2.2.2.1, rfl, by decide, by decide, cycles_one (step_held true inStrobe).choose_spec⟩,
    ⟨smallConfig, [], _, 0, by decide, by decide, rfl⟩⟩

end Sys2Proof.Tests
end

section
/-! The counters' ranges and widths (00_scope.md R7). -/

namespace Sys2Proof.Machine

/-! ## Ranges -/

/-- Every counter of the block lies in its range (00_scope.md R7). -/
structure CountersInRange (s : State) : Prop where
  delay : s.regs.dcnt < s.cfg.confCycles
  timer : s.regs.tmr < s.cfg.bitCycles
  index : s.regs.cidx.toNat ≤ 2
  count : s.regs.bcnt.toNat ≤ 13

/-- The ranges have room for the zeros that reset writes. -/
theorem resetEdge_countersInRange {s : State} (hc : s.cfg.wellFormed = true) : CountersInRange (resetEdge s) := by
  obtain ⟨hconf, hbit⟩ := wellFormed_bounds hc
  exact ⟨hconf, show 0 < s.cfg.bitCycles by omega, Nat.zero_le _, Nat.zero_le _⟩

/-- No operation writes `tmr` past the background update (41_sampling.md R121), so at a clock edge only the other three counters
depend on the operation's writes. -/
theorem clockEdge_countersInRange {s : State} {k : Controls} {w : Regs → Regs} {o : Option PassOutcome} (hi : Inv s)
    (htmr : (clockEdge s k w o).regs.tmr = nextTmr s.cfg k s.regs)
    (hdcnt : (clockEdge s k w o).regs.dcnt < s.cfg.confCycles)
    (hcidx : (clockEdge s k w o).regs.cidx.toNat ≤ 2)
    (hbcnt : (clockEdge s k w o).regs.bcnt.toNat ≤ 13) : CountersInRange (clockEdge s k w o) where
  delay := hdcnt
  timer := by
    rw [htmr]
    exact nextTmr_lt (Nat.zero_lt_of_lt hi.timer) hi.timer
  index := hcidx
  count := hbcnt

/-- CONF_NEXT leaves the last read's index alone (40_edge.md R107), so counting on stays within 2. -/
theorem index_succ_le {i : BitVec 2} (hle : i.toNat ≤ 2) (hne : i ≠ 2#2) : (i + 1#2).toNat ≤ 2 := by
  revert i
  decide

/-- A value loaded into the delay counter is in range. -/
theorem loadDelay_lt {s : State} (hi : Inv s) (r : Regs) : (loadDelay s.cfg r).dcnt < s.cfg.confCycles :=
  Nat.sub_lt (Nat.zero_lt_of_lt hi.delay) Nat.one_pos

/-- Counting the delay down keeps the counters in range. -/
theorem countDelay_countersInRange {s : State} (hi : Inv s) :
    CountersInRange (clockEdge s {} (countDelay s.regs) none) :=
  clockEdge_countersInRange hi rfl (Nat.lt_of_le_of_lt (Nat.sub_le ..) hi.delay) hi.index hi.count

/-- A bit is shifted in only while at most 12 are behind, so the count reaches at most 13. -/
theorem shiftIn_countersInRange {s : State} {k : Controls} (hi : Inv s) (bit : Bool)
    (hf : s.regs.fsm = Fsm.waitBit ∨ s.regs.fsm = Fsm.recheck) :
    CountersInRange (clockEdge s k (shiftIn bit s.regs) none) := by
  have hn : s.regs.bcnt.toNat ≤ 12 := (hi.sampling hf).1
  refine clockEdge_countersInRange hi rfl hi.delay hi.index ?_
  rw [clockEdge_regs, shiftIn_bcnt, toNat_count _ (by omega)]
  omega

/-- Ending a pass writes `fsm` and `pend` only (60_exceptions.md R167), so it keeps the ranges when the write beside it leaves the
counters alone. -/
theorem endPass_countersInRange {s : State} {k : Controls} {w : Regs → Regs} {o : PassOutcome} (hi : Inv s)
    (htmr : ∀ r, (w r).tmr = r.tmr) (hdcnt : ∀ r, (w r).dcnt = r.dcnt) (hcidx : ∀ r, (w r).cidx = r.cidx)
    (hbcnt : ∀ r, (w r).bcnt = r.bcnt) : CountersInRange (endPass s k w o) :=
  clockEdge_countersInRange hi (htmr _) ((hdcnt _).trans_lt hi.delay) ((hcidx _).symm ▸ hi.index)
    ((hbcnt _).symm ▸ hi.count)

/-- 00_scope.md R7: no rule writes a value outside a counter's range. -/
theorem step_countersInRange {s t : State} (hi : Inv s) (h : step s = .next t) : CountersInRange t := by
  apply step_cases h
  case reset => exact fun _ => resetEdge_countersInRange hi.config
  case idleWait | bitWait => exact fun _ _ => clockEdge_countersInRange hi rfl hi.delay hi.index hi.count
  case confNoise => exact fun _ _ _ => endPass_countersInRange hi (fun _ => rfl) (fun _ => rfl) (fun _ => rfl) fun _ => rfl
  case frameAccept | frameReject =>
    exact fun _ _ => endPass_countersInRange hi (fun _ => rfl) (fun _ => rfl) (fun _ => rfl) fun _ => rfl
  case illegalState => exact fun _ => endPass_countersInRange hi (fun _ => rfl) (fun _ => rfl) (fun _ => rfl) fun _ => rfl
  case confDelay | rchkDelay => exact fun _ _ => countDelay_countersInRange hi
  case passEnter => exact fun _ _ => clockEdge_countersInRange hi rfl (loadDelay_lt hi _) (Nat.zero_le _) hi.count
  case bitProbe => exact fun _ _ _ => clockEdge_countersInRange hi rfl (loadDelay_lt hi _) (Nat.zero_le _) hi.count
  case confNext =>
    intro _ _ _ hne
    exact clockEdge_countersInRange hi rfl (loadDelay_lt hi _) (index_succ_le hi.index hne) hi.count
  case rchkNext =>
    exact fun _ _ _ _ => clockEdge_countersInRange hi rfl (loadDelay_lt hi _) (show (1 : Nat) ≤ 2 by decide) hi.count
  case passStart => exact fun _ _ _ _ => clockEdge_countersInRange hi rfl hi.delay hi.index (Nat.zero_le _)
  case bitZero => exact fun hf _ _ => shiftIn_countersInRange hi false (.inl hf)
  case rchkZero => exact fun hf _ _ => shiftIn_countersInRange hi false (.inr hf)
  case rchkOne => exact fun hf _ _ _ => shiftIn_countersInRange hi true (.inr hf)

/-! ## Widths -/

/-- The width R7 gives a counter with `n` values, which is `Config.delayWidth` and `Config.timerWidth`, holds each of them. -/
theorem lt_two_pow_width {x n : Nat} (h : x < n) : x < 2 ^ max 1 (Nat.clog 2 n) :=
  calc x < n := h
    _ ≤ 2 ^ Nat.clog 2 n := Nat.le_pow_clog Nat.one_lt_two n
    _ ≤ 2 ^ max 1 (Nat.clog 2 n) := Nat.pow_le_pow_right Nat.two_pos (le_max_right ..)

/-- Settles O32: every step leaves the counters in their ranges, and a range fits the width computed from its size. -/
theorem countersFitTheirWidths : Obligations.CountersFitTheirWidths := by
  intro s t hi h
  obtain ⟨hdcnt, htmr, hcidx, hbcnt⟩ := step_countersInRange hi h
  exact ⟨Nat.le_sub_one_of_lt hdcnt, Nat.le_sub_one_of_lt htmr, hcidx, hbcnt, lt_two_pow_width hdcnt, lt_two_pow_width htmr⟩

end Sys2Proof.Machine
end


section
/-! Every operation in one shape, and what follows for the registers: the reset values (10_state.md R20), the two strobes (R34, R35) and
the write map (R41). -/

namespace Sys2Proof.Machine

/-! ## The edge of an operation

The meaning of every selector operation is `clockEdge` of three things: what the operation asserts towards the background updates, its
own writes, and the outcome it records. `exec_operation` ties them to the model; a frame word's meaning is not of this shape, so what
the three say of one is never used. -/

/-- What an operation asserts towards the background updates (10_state.md R41; 60_exceptions.md R165). -/
def controlsOf : Instr → Controls
  | .passEnter => { kick := true }
  | .passStart => { start := true }
  | .bitZero | .bitProbe => { consume := true }
  | .frameAccept => { strobe := true, clear := true }
  | .confNoise | .frameReject | .illegalState5 | .illegalState67 => { clear := true }
  | _ => {}

/-- What an operation writes over the background updates (10_state.md R41), reading the registers of `s` before the edge. -/
def writesOf (i : Instr) (s : State) (r : Regs) : Regs :=
  match i with
  | .passEnter => loadDelay s.cfg { r with fsm := Fsm.confirm, cidx := 0#2 }
  | .confDelay | .rchkDelay => countDelay s.regs r
  | .confNext => loadDelay s.cfg { r with cidx := s.regs.cidx + 1#2 }
  | .passStart => { r with fsm := Fsm.waitBit, frame := 1#14, bcnt := 0#4 }
  | .bitZero | .rchkZero => shiftIn false s.regs r
  | .bitProbe => loadDelay s.cfg { r with fsm := Fsm.recheck, cidx := 0#2 }
  | .rchkNext => loadDelay s.cfg { r with cidx := 1#2 }
  | .rchkOne => shiftIn true s.regs r
  | .frameAccept => { presentFrame s.regs.frame r with fsm := Fsm.idle }
  | .confNoise | .frameReject | .illegalState5 | .illegalState67 => { r with fsm := Fsm.idle }
  | _ => r

/-- The outcome an operation records (60_exceptions.md R160). -/
def outcomeOf (i : Instr) (s : State) : Option PassOutcome :=
  match i with
  | .confNoise => some (.noise (s.regs.cidx.toNat + 1))
  | .frameAccept => some (.accept s.regs.frame)
  | .frameReject => some (.reject s.regs.frame)
  | .illegalState5 | .illegalState67 => some (.illegal s.regs.fsm)
  | _ => none

/-- The clock edge on which the operation `i` runs. -/
def operationEdge (i : Instr) (s : State) : State := clockEdge s (controlsOf i) (writesOf i s) (outcomeOf i s)

/-- The meaning of a selector operation is its edge. -/
theorem exec_operation {i : Instr} (hi : isOperation i = true) (s : State) : exec i s = .next (operationEdge i s) := by
  cases i with
  | rc5Accept | rc5RejectS2 | rc5RejectT => exact (Bool.false_ne_true hi).elim
  | _ => rfl

/-- The sequencer selects operations only (30_encoding.md R77). -/
theorem isOperation_operation (s : State) : isOperation s.operation = true := by
  rw [operation_eq, selectOperation]
  split_ifs <;> rfl

/-- A step is the reset edge or the edge of the selected operation. -/
theorem step_edge {s t : State} (h : step s = .next t) :
    (s.input.rst = true ∧ t = resetEdge s) ∨ (s.input.rst = false ∧ t = operationEdge s.operation s) := by
  have hc := step_next_wellFormed h
  cases hr : s.input.rst with
  | true =>
    rw [step_reset hc hr] at h
    exact .inl ⟨rfl, (Host.Outcome.next.inj h).symm⟩
  | false =>
    rw [step_operation hc hr, exec_operation (isOperation_operation s)] at h
    exact .inr ⟨rfl, (Host.Outcome.next.inj h).symm⟩

/-! ## What an operation asserts -/

theorem controlsOf_start (i : Instr) : (controlsOf i).start = decide (i = .passStart) := by cases i <;> rfl

theorem controlsOf_consume (i : Instr) : (controlsOf i).consume = decide (i ∈ [.bitZero, .bitProbe]) := by cases i <;> rfl

theorem controlsOf_clear (i : Instr) : (controlsOf i).clear =
    decide (i ∈ [.confNoise, .frameAccept, .frameReject, .illegalState5, .illegalState67]) := by cases i <;> rfl

theorem controlsOf_strobe (i : Instr) : (controlsOf i).strobe = decide (i = .frameAccept) := by cases i <;> rfl

theorem controlsOf_kick (i : Instr) : (controlsOf i).kick = decide (i = .passEnter) := by cases i <;> rfl

/-! ## What the background updates decide

No operation writes over the background update of `pend`, `tmr`, `cmpf` or a strobe: it acts on them through `controlsOf` alone. -/

section Background

variable (i : Instr) (s : State)

theorem writesOf_pend (r : Regs) : (writesOf i s r).pend = r.pend := by cases i <;> rfl

theorem writesOf_tmr (r : Regs) : (writesOf i s r).tmr = r.tmr := by cases i <;> rfl

theorem writesOf_cmpf (r : Regs) : (writesOf i s r).cmpf = r.cmpf := by cases i <;> rfl

theorem writesOf_valid (r : Regs) : (writesOf i s r).valid = r.valid := by cases i <;> rfl

theorem writesOf_kick (r : Regs) : (writesOf i s r).kick = r.kick := by cases i <;> rfl

/-- `pend` after an operation (40_edge.md R102). -/
theorem operationEdge_pend : (operationEdge i s).regs.pend =
    if i ∈ [.confNoise, .frameAccept, .frameReject, .illegalState5, .illegalState67] then false
    else if s.regs.s3 = true ∧ s.regs.s2 = false then true else s.regs.pend := by
  rw [operationEdge, clockEdge_regs, writesOf_pend, background_pend, nextPend, controlsOf_clear]
  simp only [decide_eq_true_eq, fall_iff]

/-- `tmr` after an operation (41_sampling.md R121). -/
theorem operationEdge_tmr : (operationEdge i s).regs.tmr =
    if i = .passStart then 0 else if s.regs.tmr = s.cfg.bitCycles - 1 then 0 else s.regs.tmr + 1 := by
  rw [operationEdge, clockEdge_regs, writesOf_tmr, background_tmr, nextTmr, controlsOf_start]
  simp only [decide_eq_true_eq, tick_iff]

/-- `cmpf` after an operation (41_sampling.md R122). -/
theorem operationEdge_cmpf : (operationEdge i s).regs.cmpf =
    if i = .passStart then false else if s.regs.tmr = s.cfg.bitCycles - 1 then true
    else if i ∈ [.bitZero, .bitProbe] then false else s.regs.cmpf := by
  rw [operationEdge, clockEdge_regs, writesOf_cmpf, background_cmpf, nextCmpf, controlsOf_start, controlsOf_consume]
  simp only [decide_eq_true_eq, tick_iff]

/-- The frame-accepted strobe after an operation (42_frame.md R143). -/
theorem operationEdge_valid : (operationEdge i s).regs.valid = decide (i = .frameAccept) := by
  rw [operationEdge, clockEdge_regs, writesOf_valid, background_valid, controlsOf_strobe]

/-- The pass-start pulse after an operation (42_frame.md R143). -/
theorem operationEdge_kick : (operationEdge i s).regs.kick = decide (i = .passEnter) := by
  rw [operationEdge, clockEdge_regs, writesOf_kick, background_kick, controlsOf_kick]

end Background

/-! ## What an operation leaves alone, column by column (10_state.md R41)

In each proof the operations of the first line are those whose row marks the column. -/

section Columns

variable {i : Instr} {s : State}

theorem operationEdge_fsm_held (h : i ∉ [.passEnter, .confNoise, .passStart, .bitZero, .bitProbe, .rchkZero, .rchkOne,
    .frameAccept, .frameReject, .illegalState5, .illegalState67]) : (operationEdge i s).regs.fsm = s.regs.fsm := by
  cases i with
  | passEnter | confNoise | passStart | bitZero | bitProbe | rchkZero | rchkOne | frameAccept | frameReject | illegalState5
  | illegalState67 => exact absurd (by decide) h
  | _ => rfl

theorem operationEdge_dcnt_held (h : i ∉ [.passEnter, .confDelay, .confNext, .bitProbe, .rchkDelay, .rchkNext]) :
    (operationEdge i s).regs.dcnt = s.regs.dcnt := by
  cases i with
  | passEnter | confDelay | confNext | bitProbe | rchkDelay | rchkNext => exact absurd (by decide) h
  | _ => rfl

theorem operationEdge_cidx_held (h : i ∉ [.passEnter, .confNext, .bitProbe, .rchkNext]) :
    (operationEdge i s).regs.cidx = s.regs.cidx := by
  cases i with
  | passEnter | confNext | bitProbe | rchkNext => exact absurd (by decide) h
  | _ => rfl

theorem operationEdge_bits_held (h : i ∉ [.passStart, .bitZero, .rchkZero, .rchkOne]) :
    (operationEdge i s).regs.bcnt = s.regs.bcnt ∧ (operationEdge i s).regs.frame = s.regs.frame := by
  cases i with
  | passStart | bitZero | rchkZero | rchkOne => exact absurd (by decide) h
  | _ => exact ⟨rfl, rfl⟩

theorem operationEdge_outputs_held (h : i ≠ .frameAccept) :
    (operationEdge i s).regs.outCmd = s.regs.outCmd ∧ (operationEdge i s).regs.outAddr = s.regs.outAddr ∧
      (operationEdge i s).regs.outTog = s.regs.outTog ∧ (operationEdge i s).regs.outFrame = s.regs.outFrame := by
  cases i with
  | frameAccept => exact absurd rfl h
  | _ => exact ⟨rfl, rfl, rfl, rfl⟩

end Columns

/-- What PASS_START clears and presets (40_edge.md R108). -/
theorem operationEdge_passStart (s : State) :
    (operationEdge .passStart s).regs.tmr = 0 ∧ (operationEdge .passStart s).regs.cmpf = false ∧
      (operationEdge .passStart s).regs.bcnt = 0#4 ∧ (operationEdge .passStart s).regs.frame = 1#14 :=
  ⟨rfl, rfl, rfl, rfl⟩

/-- Settles O24: a column shown as `-` is held, or follows the background updates, which an operation acts on by its controls
alone. -/
theorem writeMapIsComplete : Obligations.WriteMapIsComplete := by
  intro i s hi
  refine ⟨_, exec_operation hi s, operationEdge_fsm_held, operationEdge_dcnt_held, operationEdge_cidx_held,
    operationEdge_bits_held, operationEdge_outputs_held, ?passStart, ?tmr, ?consumed, ?cmpf, ?strobe, ?noStrobe, ?kick, ?noKick,
    ?cleared, ?pend⟩
  case passStart => rintro rfl; exact operationEdge_passStart s
  case tmr => intro h; rw [operationEdge_tmr, if_neg h]
  case consumed =>
    intro h
    have hstart : i ≠ .passStart := by rintro rfl; exact absurd h (by decide)
    rw [operationEdge_cmpf, if_neg hstart, if_pos h]
  case cmpf =>
    intro h
    obtain ⟨hstart, hconsume⟩ := List.ne_and_not_mem_of_not_mem_cons h
    rw [operationEdge_cmpf, if_neg hstart, if_neg hconsume]
  case strobe | noStrobe => intro h; simp [operationEdge_valid, h]
  case kick | noKick => intro h; simp [operationEdge_kick, h]
  case cleared => intro h; rw [operationEdge_pend, if_pos h]
  case pend => intro h; rw [operationEdge_pend, if_neg h]

/-! ## The strobes -/

/-- `frame_valid` is given by FRAME_ACCEPT alone, and not over a reset (10_state.md R34). -/
theorem step_valid_iff {s t : State} (h : step s = .next t) :
    t.regs.valid = true ↔ s.input.rst = false ∧ s.operation = .frameAccept := by
  obtain ⟨hr, rfl⟩ | ⟨hr, rfl⟩ := step_edge h
  · simp [hr, Regs.reset]
  · simp [hr, operationEdge_valid]

/-- `wdt_kick` is given by PASS_ENTER alone, and not over a reset (10_state.md R35). -/
theorem step_kick_iff {s t : State} (h : step s = .next t) :
    t.regs.kick = true ↔ s.input.rst = false ∧ s.operation = .passEnter := by
  obtain ⟨hr, rfl⟩ | ⟨hr, rfl⟩ := step_edge h
  · simp [hr, Regs.reset]
  · simp [hr, operationEdge_kick]

/-- A strobe stands after FRAME_ACCEPT's edge only. -/
theorem acceptFrame_of_valid {s t : State} (h : step s = .next t) (hv : t.regs.valid = true) :
    t = acceptFrame s s.regs.frame := by
  obtain ⟨hr, ho⟩ := (step_valid_iff h).mp hv
  rw [step_operation (step_next_wellFormed h) hr, ho] at h
  exact (Host.Outcome.next.inj h).symm

/-- A pulse stands after PASS_ENTER's edge only. -/
theorem enterPass_of_kick {s t : State} (h : step s = .next t) (hk : t.regs.kick = true) : t = enterPass s := by
  obtain ⟨hr, ho⟩ := (step_kick_iff h).mp hk
  rw [step_operation (step_next_wellFormed h) hr, ho] at h
  exact (Host.Outcome.next.inj h).symm

/-- The cycle of a strobe is one of IDLE, whose operations give none. -/
theorem valid_falls {s t u : State} (h : step s = .next t) (g : step t = .next u) (hv : t.regs.valid = true) :
    u.regs.valid = false := by
  have hidle : t.regs.fsm = Fsm.idle := by rw [acceptFrame_of_valid h hv]; rfl
  have hop : t.operation ≠ .frameAccept := by rw [operation_idle hidle]; split_ifs <;> simp
  exact Bool.eq_false_iff.mpr fun hu => hop ((step_valid_iff g).mp hu).2

/-- The cycle of a pulse is one of CONFIRM, whose operations give none. -/
theorem kick_falls {s t u : State} (h : step s = .next t) (g : step t = .next u) (hk : t.regs.kick = true) :
    u.regs.kick = false := by
  have hconf : t.regs.fsm = Fsm.confirm := by rw [enterPass_of_kick h hk]; rfl
  have hop : t.operation ≠ .passEnter := by rw [operation_confirm hconf]; split_ifs <;> simp
  exact Bool.eq_false_iff.mpr fun hu => hop ((step_kick_iff g).mp hu).2

/-- Settles O34: each strobe is its operation's control, and the state that operation leads to never selects it again at once. -/
theorem strobesLastOneCycle : Obligations.StrobesLastOneCycle := by
  refine ⟨fun _ => bne_iff_ne, fun s t h => ⟨step_valid_iff h, step_kick_iff h, fun hv => ?_, fun u _ g =>
    ⟨valid_falls h g, kick_falls h g⟩⟩⟩
  rw [acceptFrame_of_valid h hv]
  exact ⟨rfl, rfl, rfl, rfl⟩

/-! ## The reset values -/

@[simp] theorem resetWith_regs (c : Config) (stim : List Input) : (State.resetWith c stim).regs = .reset := rfl

/-- Settles O2: both reset states hold `Regs.reset`, which is the table's row of values. -/
theorem resetStateHoldsResetValues : Obligations.ResetStateHoldsResetValues := by
  intro r c stim h
  have hreset : r = Regs.reset := by simpa [State.reset] using h
  rw [hreset]
  rfl

end Sys2Proof.Machine
end

section
/-! The output registers and the strobe (20_memory.md R54). -/

namespace Sys2Proof.Machine

/-- Settles O27: a strobe is FRAME_ACCEPT's and the whole of its edge presents the frame; every other operation's edge holds the
outputs. -/
theorem outputsChangeOnlyWithStrobe : Obligations.OutputsChangeOnlyWithStrobe := by
  intro s t hr h
  have hstrobe : t.regs.valid = true ↔ s.operation = .frameAccept := by simp [step_valid_iff h, hr]
  refine ⟨fun ho => ?presented, hstrobe.mp, fun ho => ?held⟩
  case presented =>
    have hv := hstrobe.mpr ho
    rw [acceptFrame_of_valid h hv]
    exact ⟨rfl, rfl, rfl, rfl, rfl⟩
  case held =>
    obtain ⟨hreset, -⟩ | ⟨-, rfl⟩ := step_edge h
    · exact absurd (hr.symm.trans hreset) Bool.false_ne_true
    · obtain ⟨hcmd, haddr, htog, hframe⟩ := operationEdge_outputs_held (s := s) ho
      exact ⟨hframe, hcmd, haddr, htog⟩

end Sys2Proof.Machine
end

section
/-! The selector word: its fields and the operation it selects (30_encoding.md R76), and its row of the opcode table (R77). -/

namespace Sys2Proof.Machine

/-! ## The fields of the selector word -/

theorem lastConfirmation_eq (r : Regs) :
    lastConfirmation r = decide (if r.fsm = Fsm.confirm then r.cidx = 2#2 else r.cidx = 1#2) := by
  unfold lastConfirmation
  split_ifs <;> rfl

/-- Settles O4: the step of a running cycle is the selected operation, and the selector word is its fields in their places. -/
theorem stepRunsSelectedOperation : Obligations.StepRunsSelectedOperation := by
  intro s hc hr
  refine ⟨step_operation hc hr, ?_⟩
  rw [selector_eq_ofFields, extractFsm_selectorOfFields, lastConfirmation_eq]
  iterate 7 rw [getLsbD_selectorOfFields]
  exact ⟨rfl, rfl, rfl, rfl, rfl, rfl, rfl, rfl⟩

/-- A selector word is its eight fields (30_encoding.md R76). -/
theorem selectorOfFields_fields (w : BitVec 10) :
    selectorOfFields (w.extractLsb' 7 3) (w.getLsbD 6) (w.getLsbD 5) (w.getLsbD 4) (w.getLsbD 3) (w.getLsbD 2) (w.getLsbD 1)
      (w.getLsbD 0) = w := by
  apply BitVec.eq_of_getLsbD_eq
  intro i hi
  rw [getLsbD_selectorOfFields]
  match i with
  | 0 | 1 | 2 | 3 | 4 | 5 | 6 => rfl
  | n + 7 => simp [Nat.add_comm 7 n, show n < 3 by omega]

/-! ## Rows of the selector format -/

/-- Which words of the selector format belong to a row. -/
theorem accepts_selector_iff {row : TableRow} {w : BitVec 10} :
    row.accepts (.selector w) = true ↔ row.format = .selector ∧ w.setWidth 14 &&& row.mask = row.value := by
  simp [TableRow.accepts, Word.format, Word.bits]

/-- The bits of a selector word under a row's mask, field by field. -/
theorem selectorOfFields_and_mask (f : BitVec 3) (p d l m c b a : Bool) (mask : BitVec 14) :
    (selectorOfFields f p d l m c b a).setWidth 14 &&& mask =
      (selectorOfFields (mask.extractLsb' 7 3 &&& f) (mask.getLsbD 6 && p) (mask.getLsbD 5 && d) (mask.getLsbD 4 && l)
        (mask.getLsbD 3 && m) (mask.getLsbD 2 && c) (mask.getLsbD 1 && b) (mask.getLsbD 0 && a)).setWidth 14 := by
  apply BitVec.eq_of_getLsbD_eq
  intro i hi
  simp only [BitVec.getLsbD_and, BitVec.getLsbD_setWidth, getLsbD_selectorOfFields]
  match i with
  | 0 | 1 | 2 | 3 | 4 | 5 | 6 => simp [Bool.and_comm]
  | n + 7 =>
    by_cases h : n < 3
    · simp [Nat.add_comm 7 n, h, hi, Bool.and_comm]
    · simp [h, BitVec.getLsbD_of_ge f n (Nat.not_lt.mp h)]

/-- The codes past 5 are the two that have both upper bits set. -/
theorem six_and_code (f : BitVec 3) :
    f = Fsm.idle ∨ f = Fsm.confirm ∨ f = Fsm.waitBit ∨ f = Fsm.recheck ∨ f = Fsm.validate ∨ f = 5#3 ∨ 6#3 &&& f = 6#3 := by
  revert f; decide

/-- A selector word belongs to the row of the operation the table of R77 selects by its fields: what that row fixes are the fields
tested on the way to it. The codes 6 and 7 are the table's last branch, reached when no other code is met. -/
theorem selectOperation_row_accepts (f : BitVec 3) (p d l m c b a : Bool) :
    (tableRow (selectOperation f p d l m c a)).accepts (.selector (selectorOfFields f p d l m c b a)) = true := by
  rw [accepts_selector_iff, selectorOfFields_and_mask]
  fun_cases selectOperation f p d l m c a
  case case17 h0 h1 h2 h3 h4 h5 =>
    have hcode : 6#3 &&& f = 6#3 := by simpa only [h0, h1, h2, h3, h4, h5, false_or] using six_and_code f
    simp [hcode, tableRow, selectorOfFields]
  all_goals simp [*, tableRow, selectorOfFields]

/-- The row of the operation a selector word decodes to accepts the word. -/
theorem decodeSelector_row_accepts (w : BitVec 10) : (tableRow (decodeSelector w)).accepts (.selector w) = true := by
  rw [← selectorOfFields_fields w, decodeSelector_ofFields]
  exact selectOperation_row_accepts ..

/-- The operations, in the order of spec/opcode_table.json. -/
def operations : List Instr :=
  [.idleWait, .passEnter, .confDelay, .confNoise, .confNext, .passStart, .bitWait, .bitZero, .bitProbe, .rchkDelay, .rchkZero,
    .rchkNext, .rchkOne, .frameAccept, .frameReject, .illegalState5, .illegalState67]

theorem mem_operations {i : Instr} (hi : isOperation i = true) : i ∈ operations := by
  cases i with
  | rc5Accept | rc5RejectS2 | rc5RejectT => exact (Bool.false_ne_true hi).elim
  | _ => decide

/-- Two rows of the selector format that agree on the bits both fix are one row. -/
theorem operations_rows_disjoint : ∀ i ∈ operations, ∀ j ∈ operations,
    (tableRow i).value &&& (tableRow j).mask = (tableRow j).value &&& (tableRow i).mask → i = j := by
  decide

/-- No two rows of the selector format accept the same word (30_encoding.md R77). -/
theorem eq_of_rows_accept {i j : Instr} {w : BitVec 10} (hi : (tableRow i).accepts (.selector w) = true)
    (hj : (tableRow j).accepts (.selector w) = true) : i = j := by
  obtain ⟨fi, vi⟩ := accepts_selector_iff.mp hi
  obtain ⟨fj, vj⟩ := accepts_selector_iff.mp hj
  refine operations_rows_disjoint i (mem_operations (beq_iff_eq.mpr fi)) j (mem_operations (beq_iff_eq.mpr fj)) ?_
  rw [← vi, ← vj, BitVec.and_assoc, BitVec.and_assoc, BitVec.and_comm (tableRow i).mask]

/-- Settles O5: the decoded operation's row accepts the word, and no other row does. -/
theorem selectorWordHasExactlyItsRow : Obligations.SelectorWordHasExactlyItsRow := by
  intro w i _
  constructor
  · exact fun h => eq_of_rows_accept (decodeSelector_row_accepts w) h
  · rintro rfl
    exact decodeSelector_row_accepts w

end Sys2Proof.Machine
end

section
/-! The acceptance test and the frame classes (30_encoding.md R73, R78). -/

namespace Sys2Proof.Machine

theorem accept_iff {c : Config} {f : BitVec 14} : accept c f = true ↔ f &&& c.acceptMask = c.acceptMatch := beq_iff_eq

/-- Under the default mask the test reads bits 12 and 11 only (30_encoding.md R73). -/
theorem and_defaultMask_iff (f : BitVec 14) :
    f &&& 0x1800#14 = 0x1000#14 ↔ startField2 f = true ∧ toggleField f = false := by
  obtain ⟨-, -, -, h⟩ := Laws.RowMatch.frame_row (startField1 f) (startField2 f) (toggleField f) (addressField f) (commandField f)
  rw [frameOfFields_fields] at h
  rw [← beq_iff_eq, h, Bool.and_eq_true, Bool.not_eq_true']

/-- The frames of class RC5_ACCEPT (30_encoding.md R78). -/
theorem decodeFrame_rc5Accept_iff (f : BitVec 14) :
    (∃ s1 a cmd, decodeFrame f = .rc5Accept s1 a cmd) ↔ startField2 f = true ∧ toggleField f = false := by
  unfold decodeFrame
  cases startField2 f <;> cases toggleField f <;> simp

/-- Settles O36: the default mask's test and the class RC5_ACCEPT both are S2 = 1 and T = 0. -/
theorem defaultMaskAcceptsExactlyClassAccept : Obligations.DefaultMaskAcceptsExactlyClassAccept := by
  intro c f
  refine ⟨accept_iff, fun hmask hmatch => ?_⟩
  have haccept : accept c f = true ↔ startField2 f = true ∧ toggleField f = false := by
    rw [accept_iff, hmask, hmatch, and_defaultMask_iff]
  exact ⟨haccept, haccept.trans (decodeFrame_rc5Accept_iff f).symm⟩

end Sys2Proof.Machine
end

section
/-! The stimulus language and its encoding (30_encoding.md R80, R81). -/

namespace Sys2Proof.Machine

/-! ## The run-length list of `ir_in` -/

/-- What a level put before a sequence does to its run-length list: it lengthens the first run, or starts a run of its own before one
of another level. -/
theorem runLengths_cons_cases (level : Bool) (rest : List Bool) :
    (∃ n runs, runLengths rest = (level, n) :: runs ∧ runLengths (level :: rest) = (level, n + 1) :: runs) ∨
      ((∀ run ∈ (runLengths rest).head?, level ≠ run.1) ∧ runLengths (level :: rest) = (level, 1) :: runLengths rest) := by
  rcases h : runLengths rest with - | ⟨⟨other, n⟩, runs⟩
  · exact .inr ⟨by simp, by simp [runLengths, h]⟩
  · by_cases hl : level = other
    · subst hl
      exact .inl ⟨n, runs, rfl, by simp [runLengths, h]⟩
    · exact .inr ⟨by simpa using hl, by simp [runLengths, h, hl]⟩

@[simp] theorem unrollRuns_cons (level : Bool) (n : Nat) (runs : List (Bool × Nat)) :
    unrollRuns ((level, n) :: runs) = List.replicate n level ++ unrollRuns runs := rfl

/-- Unrolling undoes the run-length encoding. -/
theorem unrollRuns_runLengths (levels : List Bool) : unrollRuns (runLengths levels) = levels := by
  induction levels with
  | nil => rfl
  | cons level rest ih =>
    obtain ⟨n, runs, hrest, h⟩ | ⟨-, h⟩ := runLengths_cons_cases level rest
    · rw [hrest, unrollRuns_cons] at ih
      rw [h, unrollRuns_cons, List.replicate_succ, List.cons_append, ih]
    · rw [h, unrollRuns_cons, ih, List.replicate_one, List.singleton_append]

/-- Runs side by side have different levels (30_encoding.md R80). -/
theorem runLengths_isChain (levels : List Bool) : (runLengths levels).IsChain (fun a b => a.1 ≠ b.1) := by
  induction levels with
  | nil => exact .nil
  | cons level rest ih =>
    obtain ⟨n, runs, hrest, h⟩ | ⟨hne, h⟩ := runLengths_cons_cases level rest
    · rw [hrest, List.isChain_cons] at ih
      rw [h, List.isChain_cons]
      exact ih
    · rw [h, List.isChain_cons]
      exact ⟨hne, ih⟩

/-! ## The reset set -/

theorem mem_resetCyclesFrom_cons {first : Input} {rest : List Input} {n k : Nat} :
    k ∈ resetCyclesFrom n (first :: rest) ↔ k = n ∧ first.rst = true ∨ k ∈ resetCyclesFrom (n + 1) rest := by
  cases h : first.rst <;> simp [resetCyclesFrom, h]

/-- The reset set of a stimulus whose first cycle has the number `n`. -/
theorem mem_resetCyclesFrom {x : List Input} {n k : Nat} :
    k ∈ resetCyclesFrom n x ↔ ∃ j i, k = n + j ∧ x[j]? = some i ∧ i.rst = true := by
  induction x generalizing n with
  | nil => simp [resetCyclesFrom]
  | cons first rest ih =>
    rw [mem_resetCyclesFrom_cons, ih]
    constructor
    · rintro (⟨rfl, hrst⟩ | ⟨j, i, rfl, hi, hrst⟩)
      · exact ⟨0, first, rfl, rfl, hrst⟩
      · exact ⟨j + 1, i, by omega, hi, hrst⟩
    · rintro ⟨j, i, rfl, hi, hrst⟩
      cases j with
      | zero =>
        obtain rfl := Option.some.inj hi
        exact .inl ⟨rfl, hrst⟩
      | succ j => exact .inr ⟨j, i, by omega, hi, hrst⟩

theorem mem_resets {x : List Input} {k : Nat} : k ∈ (encodeStimulus x).resets ↔ ∃ i, x[k]? = some i ∧ i.rst = true := by
  simp [encodeStimulus, mem_resetCyclesFrom]

/-- Only `RST` drives `rst` (30_encoding.md R80). -/
theorem StimulusItem.inputs_noReset {c : Config} {item : StimulusItem} {x : List Input} (hitem : ∀ n, item ≠ .reset n)
    (h : item.inputs c = some x) {i : Input} (hi : i ∈ x) : i.rst = false := by
  cases item with
  | high n | low n =>
    obtain rfl := Option.some.inj h
    rw [List.eq_of_mem_replicate hi]
  | frame s2 toggle address command =>
    obtain ⟨-, h⟩ := Option.ite_none_right_eq_some.mp h
    obtain rfl := Option.some.inj h
    exact frameInputs_noReset hi
  | bit b =>
    obtain ⟨-, h⟩ := Option.ite_none_right_eq_some.mp h
    obtain rfl := Option.some.inj h
    exact cellInputs_noReset hi
  | reset n => exact absurd rfl (hitem n)

theorem stimulusInputs_noReset {c : Config} {program : List StimulusItem} {x : List Input}
    (h : stimulusInputs c program = some x) (hprogram : ∀ n, .reset n ∉ program) {i : Input} (hi : i ∈ x) : i.rst = false := by
  induction program generalizing x with
  | nil =>
    obtain rfl := Option.some.inj h
    exact absurd hi List.not_mem_nil
  | cons item rest ih =>
    obtain ⟨first, others, hfirst, hothers, rfl⟩ := stimulusInputs_cons.mp h
    obtain hi | hi := List.mem_append.mp hi
    · exact item.inputs_noReset (fun n hn => hprogram n (hn ▸ List.mem_cons_self)) hfirst hi
    · exact ih hothers (fun n hn => hprogram n (List.mem_cons_of_mem _ hn)) hi

/-! ## The encoding -/

theorem unrollRuns_encodeStimulus (x : List Input) : unrollRuns (encodeStimulus x).runs = x.map (·.ir) :=
  unrollRuns_runLengths _

theorem encodeStimulus_runs_isChain (x : List Input) : (encodeStimulus x).runs.IsChain (fun a b => a.1 ≠ b.1) :=
  runLengths_isChain _

/-- Two stimuli with the same encoding drive the same level and the same `rst` in every cycle (30_encoding.md R81). -/
theorem encodeStimulus_injective : Function.Injective encodeStimulus := by
  intro x y h
  have hir : x.map (·.ir) = y.map (·.ir) := by rw [← unrollRuns_encodeStimulus, h, unrollRuns_encodeStimulus]
  have hrst (k : Nat) : (∃ i, x[k]? = some i ∧ i.rst = true) ↔ ∃ i, y[k]? = some i ∧ i.rst = true := by
    rw [← mem_resets, h, mem_resets]
  refine List.ext_getElem (by simpa using congrArg List.length hir) fun k hx hy => ?_
  have hi : x[k].ir = y[k].ir := by simpa [hx, hy] using congrArg (·[k]?) hir
  have hr : x[k].rst = y[k].rst := Bool.eq_iff_iff.mpr (by simpa [hx, hy] using hrst k)
  exact congrArg₂ Input.mk hi hr

/-- Settles O41: unrolling undoes the run-length list, the reset set is the cycles with `rst = 1`, and both together are the
stimulus. -/
theorem stimulusEncodingIsFaithful : Obligations.StimulusEncodingIsFaithful := by
  refine ⟨unrollRuns_encodeStimulus, fun _ _ => mem_resets, fun c program x h hprogram => ?_, fun _ _ => rfl,
    fun _ _ h => encodeStimulus_injective h⟩
  refine List.eq_nil_iff_forall_not_mem.mpr fun k hk => ?_
  obtain ⟨i, hi, hrst⟩ := mem_resets.mp hk
  exact Bool.false_ne_true ((stimulusInputs_noReset h hprogram (List.mem_of_getElem? hi)).symm.trans hrst)

/-! ## The items and their expansions -/

@[simp] theorem stimulusInputs_singleton (c : Config) (item : StimulusItem) : stimulusInputs c [item] = item.inputs c := by
  cases h : item.inputs c <;> simp [stimulusInputs, h]

/-- Programs follow each other. -/
theorem stimulusInputs_append {c : Config} {p q : List StimulusItem} {x y : List Input} (hp : stimulusInputs c p = some x)
    (hq : stimulusInputs c q = some y) : stimulusInputs c (p ++ q) = some (x ++ y) := by
  induction p generalizing x with
  | nil =>
    obtain rfl := Option.some.inj hp
    exact hq
  | cons item rest ih =>
    obtain ⟨first, others, hfirst, hothers, rfl⟩ := stimulusInputs_cons.mp hp
    rw [List.append_assoc]
    exact stimulusInputs_cons.mpr ⟨first, others ++ y, hfirst, ih hothers, rfl⟩

theorem stimulusInputs_pair {c : Config} {p q : StimulusItem} {x y : List Input} (hp : p.inputs c = some x)
    (hq : q.inputs c = some y) : stimulusInputs c [p, q] = some (x ++ y) :=
  stimulusInputs_append (p := [p]) ((stimulusInputs_singleton c p).trans hp) ((stimulusInputs_singleton c q).trans hq)

section Even

variable {c : Config} (heven : c.bitCycles % 2 = 0)
include heven

theorem stimulusInputs_bit (b : Bool) : stimulusInputs c [.bit b] = some (cellInputs c b) := by
  rw [stimulusInputs_singleton, StimulusItem.inputs, if_pos heven]

/-- Bits one after the other are their cells one after the other. -/
theorem stimulusInputs_bits (bits : List Bool) :
    stimulusInputs c (bits.map .bit) = some (bits.flatMap (cellInputs c)) := by
  induction bits with
  | nil => rfl
  | cons b rest ih => exact stimulusInputs_append (p := [.bit b]) (stimulusInputs_bit heven b) ih

theorem stimulusInputs_frame (s2 t : Bool) (a : BitVec 5) (cmd : BitVec 6) : stimulusInputs c [.frame s2 t a cmd] =
    stimulusInputs c ((sentBits (frameOfFields true s2 t a cmd)).map .bit) := by
  rw [stimulusInputs_singleton, StimulusItem.inputs, if_pos heven, stimulusInputs_bits heven, frameInputs]

end Even

/-- The order in which a frame's fields are sent (30_encoding.md R70, 20_memory.md R52). -/
theorem sentBits_frameOfFields (s1 s2 t : Bool) (a : BitVec 5) (cmd : BitVec 6) : sentBits (frameOfFields s1 s2 t a cmd) =
    [s1, s2, t, a.getLsbD 4, a.getLsbD 3, a.getLsbD 2, a.getLsbD 1, a.getLsbD 0, cmd.getLsbD 5, cmd.getLsbD 4, cmd.getLsbD 3,
      cmd.getLsbD 2, cmd.getLsbD 1, cmd.getLsbD 0] := by
  simp only [sentBits, getLsbD_frameOfFields]
  rfl

/-- What the environment drives in a listed cycle. -/
theorem inputAt_of_getElem? {s : State} {k : Nat} {i : Input} (h : s.stim[k]? = some i) : s.inputAt k = i := by
  simp [State.inputAt, h]

/-- Settles O50: the levels of an item are its half cells in turn, and a frame's are those of its bits as sent. -/
theorem stimulusItemsExpand : Obligations.StimulusItemsExpand := by
  intro c
  refine ⟨?levels, ?cells, fun p q x y => stimulusInputs_append, ?merged, fun x k i h => ⟨rfl, inputAt_of_getElem? h⟩⟩
  case levels => exact fun n => ⟨stimulusInputs_singleton .., stimulusInputs_singleton .., stimulusInputs_singleton ..⟩
  case cells =>
    intro heven
    refine ⟨?_, ?_, fun s2 t a cmd => ?_⟩
    · rw [stimulusInputs_bit heven, cellInputs, stimulusInputs_pair rfl rfl, Bool.not_true]
    · rw [stimulusInputs_bit heven, cellInputs, stimulusInputs_pair rfl rfl, Bool.not_false]
    · rw [stimulusInputs_frame heven, sentBits_frameOfFields]
      rfl
  case merged =>
    intro x k a b ha hb
    obtain ⟨hk, rfl⟩ := List.getElem?_eq_some_iff.mp ha
    obtain ⟨hk', rfl⟩ := List.getElem?_eq_some_iff.mp hb
    exact (encodeStimulus_runs_isChain x).getElem k hk'

end Sys2Proof.Machine
end

section
/-! Which operation a cycle selects (30_encoding.md R77), and the whole next state of each. -/

namespace Sys2Proof.Machine

/-! ## Selection -/

/-- What the registers hold in the cycles that select the operation `i` (30_encoding.md R77); a frame word is never selected. -/
def SelectedIn (i : Instr) (s : State) : Prop :=
  match i with
  | .idleWait => s.regs.fsm = Fsm.idle ∧ s.regs.pend = false
  | .passEnter => s.regs.fsm = Fsm.idle ∧ s.regs.pend = true
  | .confDelay => s.regs.fsm = Fsm.confirm ∧ s.regs.dcnt ≠ 0
  | .confNoise => s.regs.fsm = Fsm.confirm ∧ s.regs.dcnt = 0 ∧ s.regs.s2 = true
  | .confNext => s.regs.fsm = Fsm.confirm ∧ s.regs.dcnt = 0 ∧ s.regs.s2 = false ∧ s.regs.cidx ≠ 2#2
  | .passStart => s.regs.fsm = Fsm.confirm ∧ s.regs.dcnt = 0 ∧ s.regs.s2 = false ∧ s.regs.cidx = 2#2
  | .bitWait => s.regs.fsm = Fsm.waitBit ∧ s.regs.cmpf = false
  | .bitZero => s.regs.fsm = Fsm.waitBit ∧ s.regs.cmpf = true ∧ s.regs.s2 = true
  | .bitProbe => s.regs.fsm = Fsm.waitBit ∧ s.regs.cmpf = true ∧ s.regs.s2 = false
  | .rchkDelay => s.regs.fsm = Fsm.recheck ∧ s.regs.dcnt ≠ 0
  | .rchkZero => s.regs.fsm = Fsm.recheck ∧ s.regs.dcnt = 0 ∧ s.regs.s2 = true
  | .rchkNext => s.regs.fsm = Fsm.recheck ∧ s.regs.dcnt = 0 ∧ s.regs.s2 = false ∧ s.regs.cidx ≠ 1#2
  | .rchkOne => s.regs.fsm = Fsm.recheck ∧ s.regs.dcnt = 0 ∧ s.regs.s2 = false ∧ s.regs.cidx = 1#2
  | .frameAccept => s.regs.fsm = Fsm.validate ∧ s.regs.frame &&& s.cfg.acceptMask = s.cfg.acceptMatch
  | .frameReject => s.regs.fsm = Fsm.validate ∧ s.regs.frame &&& s.cfg.acceptMask ≠ s.cfg.acceptMatch
  | .illegalState5 => s.regs.fsm = 5#3
  | .illegalState67 => s.regs.fsm = 6#3 ∨ s.regs.fsm = 7#3
  | .rc5Accept _ _ _ | .rc5RejectS2 _ _ _ _ | .rc5RejectT _ _ _ => False

/-- The codes above VALIDATE's that are not 5. -/
theorem six_or_seven {f : BitVec 3} (h : 4 < f.toNat) (h5 : f ≠ 5#3) : f = 6#3 ∨ f = 7#3 := by
  revert f; decide

/-- A cycle's registers meet the condition of the operation it runs: the branches of each state of the sequencer in turn. -/
theorem selectedIn_operation (s : State) : SelectedIn s.operation s := by
  obtain hf | hf | hf | hf | hf | hf := fsm_cases s.regs.fsm
  · rw [operation_idle hf]
    split_ifs with hp
    · exact ⟨hf, hp⟩
    · exact ⟨hf, Bool.eq_false_iff.mpr hp⟩
  · rw [operation_confirm hf]
    split_ifs with hd hl hx
    · exact ⟨hf, hd, hl⟩
    · exact ⟨hf, hd, Bool.eq_false_iff.mpr hl, hx⟩
    · exact ⟨hf, hd, Bool.eq_false_iff.mpr hl, hx⟩
    · exact ⟨hf, hd⟩
  · rw [operation_waitBit hf]
    split_ifs with hm hl
    · exact ⟨hf, hm, hl⟩
    · exact ⟨hf, hm, Bool.eq_false_iff.mpr hl⟩
    · exact ⟨hf, Bool.eq_false_iff.mpr hm⟩
  · rw [operation_recheck hf]
    split_ifs with hd hl hx
    · exact ⟨hf, hd, hl⟩
    · exact ⟨hf, hd, Bool.eq_false_iff.mpr hl, hx⟩
    · exact ⟨hf, hd, Bool.eq_false_iff.mpr hl, hx⟩
    · exact ⟨hf, hd⟩
  · rw [operation_validate hf]
    split_ifs with ha
    · exact ⟨hf, accept_iff.mp ha⟩
    · exact ⟨hf, fun h => ha (accept_iff.mpr h)⟩
  · rw [operation_illegal hf]
    split_ifs with h5
    · exact h5
    · exact six_or_seven hf h5

/-- The condition of an operation selects it. -/
theorem SelectedIn.operation_eq {i : Instr} {s : State} (h : SelectedIn i s) : s.operation = i := by
  cases i with
  | idleWait | passEnter => obtain ⟨hf, hp⟩ := h; simp [operation_idle hf, hp]
  | confDelay => obtain ⟨hf, hd⟩ := h; simp [operation_confirm hf, hd]
  | confNoise => obtain ⟨hf, hd, hl⟩ := h; simp [operation_confirm hf, hd, hl]
  | confNext | passStart => obtain ⟨hf, hd, hl, hx⟩ := h; simp [operation_confirm hf, hd, hl, hx]
  | bitWait => obtain ⟨hf, hm⟩ := h; simp [operation_waitBit hf, hm]
  | bitZero | bitProbe => obtain ⟨hf, hm, hl⟩ := h; simp [operation_waitBit hf, hm, hl]
  | rchkDelay => obtain ⟨hf, hd⟩ := h; simp [operation_recheck hf, hd]
  | rchkZero => obtain ⟨hf, hd, hl⟩ := h; simp [operation_recheck hf, hd, hl]
  | rchkNext | rchkOne => obtain ⟨hf, hd, hl, hx⟩ := h; simp [operation_recheck hf, hd, hl, hx]
  | frameAccept | frameReject => obtain ⟨hf, ha⟩ := h; simp [operation_validate hf, accept_iff, ha]
  | illegalState5 => have hf : s.regs.fsm = 5#3 := h; simp [operation_illegal, hf]
  | illegalState67 => obtain hf | hf := h <;> simp [operation_illegal, hf]
  | rc5Accept | rc5RejectS2 | rc5RejectT => exact h.elim

/-- When the sequencer runs an operation (30_encoding.md R77). -/
theorem operation_eq_iff {i : Instr} {s : State} : s.operation = i ↔ SelectedIn i s :=
  ⟨fun h => h ▸ selectedIn_operation s, SelectedIn.operation_eq⟩

/-! ## The next state -/

/-- The bit timer's update, with the compare event as the timer's last value (41_sampling.md R121). -/
theorem nextTmr_eq (c : Config) (k : Controls) (r : Regs) :
    nextTmr c k r = if k.start then 0 else if r.tmr = c.bitCycles - 1 then 0 else r.tmr + 1 := by
  simp only [nextTmr, tick_iff]

/-- The compare flag's update, with the compare event as the timer's last value (41_sampling.md R122). -/
theorem nextCmpf_eq (c : Config) (k : Controls) (r : Regs) : nextCmpf c k r =
    if k.start then false else if r.tmr = c.bitCycles - 1 then true else if k.consume then false else r.cmpf := by
  simp only [nextCmpf, tick_iff]

/-- The background updates in terms of the registers before the edge and of what the operation asserts (40_edge.md R100, R102,
41_sampling.md R121, R122, 42_frame.md R143). -/
theorem background_eq (c : Config) (k : Controls) (ir : Bool) (r : Regs) : background c k ir r =
    { r with
      s1 := ir, s2 := r.s1, s3 := r.s2
      pend := if k.clear then false else if r.s3 && !r.s2 then true else r.pend
      tmr := if k.start then 0 else if r.tmr = c.bitCycles - 1 then 0 else r.tmr + 1
      cmpf := if k.start then false else if r.tmr = c.bitCycles - 1 then true else if k.consume then false else r.cmpf
      valid := k.strobe, kick := k.kick } := by
  rw [background, nextTmr_eq, nextCmpf_eq]
  rfl

/-- The whole next state of an operation: its writes over the background updates, the outcome it records, and the surroundings one
cycle on (10_state.md R40). -/
theorem exec_operation_eq {i : Instr} (hi : isOperation i = true) (s : State) : exec i s = .next
    { cfg := s.cfg
      regs := writesOf i s
        { s.regs with
          s1 := s.input.ir, s2 := s.regs.s1, s3 := s.regs.s2
          pend := if (controlsOf i).clear then false else if s.regs.s3 && !s.regs.s2 then true else s.regs.pend
          tmr := if (controlsOf i).start then 0 else if s.regs.tmr = s.cfg.bitCycles - 1 then 0 else s.regs.tmr + 1
          cmpf := if (controlsOf i).start then false else if s.regs.tmr = s.cfg.bitCycles - 1 then true
            else if (controlsOf i).consume then false else s.regs.cmpf
          valid := (controlsOf i).strobe, kick := (controlsOf i).kick }
      cycle := s.cycle + 1
      stim := s.stim.tail
      outcomes := emitted s (outcomeOf i s) } := by
  rw [exec_operation hi, operationEdge, clockEdge, background_eq]

end Sys2Proof.Machine
end

section
/-! The background updates, and the operations of IDLE and CONFIRM with those of 41_sampling.md that do the same (40_edge.md). -/

namespace Sys2Proof.Machine

/-- No operation writes over the synchroniser (40_edge.md R100). -/
theorem operationEdge_synchroniser (i : Instr) (s : State) :
    (operationEdge i s).regs.s1 = s.input.ir ∧ (operationEdge i s).regs.s2 = s.regs.s1 ∧
      (operationEdge i s).regs.s3 = s.regs.s2 := by
  cases i <;> exact ⟨rfl, rfl, rfl⟩

/-- Settles O23: an operation's edge takes every register of the background updates from them, and acts on them by its controls
alone. -/
theorem backgroundUpdatesEveryCycle : Obligations.BackgroundUpdatesEveryCycle := by
  intro i s hi
  obtain ⟨hs1, hs2, hs3⟩ := operationEdge_synchroniser i s
  refine ⟨_, exec_operation hi s, hs1, hs2, hs3, ?pend, operationEdge_tmr i s, ?cmpf, operationEdge_valid i s,
    operationEdge_kick i s⟩
  case pend => simp only [operationEdge_pend, List.mem_cons, List.not_mem_nil, or_false]
  case cmpf => simp only [operationEdge_cmpf, List.mem_cons, List.not_mem_nil, or_false]

/-- Settles O11: both operations assert and write nothing. -/
theorem waitingOperationsResult : Obligations.WaitingOperationsResult := by
  intro s i hi
  refine ⟨?result, operation_eq_iff, operation_eq_iff⟩
  case result => obtain rfl | rfl := hi <;> exact exec_operation_eq rfl s

/-- Settles O12: PASS_ENTER asserts the pulse only, so `pend` is not cleared. -/
theorem passEnterResult : Obligations.PassEnterResult :=
  fun s => ⟨exec_operation_eq rfl s, operation_eq_iff⟩

/-- Settles O13: both operations write the same countdown, and each is selected in its own state while `dcnt` is not 0. -/
theorem delayOperationsResult : Obligations.DelayOperationsResult := by
  intro s i hi
  refine ⟨fun _ => ?result, operation_eq_iff, operation_eq_iff⟩
  case result => obtain rfl | rfl := hi <;> exact exec_operation_eq rfl s

/-- Settles O14: CONF_NOISE asserts the clear, writes `fsm` alone and records the failing read. -/
theorem confNoiseResult : Obligations.ConfNoiseResult :=
  fun s => ⟨exec_operation_eq rfl s, operation_eq_iff⟩

/-- Settles O15: the two operations differ in the index they write only. -/
theorem nextReadOperationsResult : Obligations.NextReadOperationsResult := by
  intro s i index h
  refine ⟨?result, operation_eq_iff, operation_eq_iff⟩
  case result => obtain ⟨rfl, rfl⟩ | ⟨rfl, rfl⟩ := h <;> exact exec_operation_eq rfl s

/-- Settles O16: PASS_START asserts the start, which both the timer and the compare flag obey before anything else. -/
theorem passStartResult : Obligations.PassStartResult :=
  fun s => ⟨exec_operation_eq rfl s, operation_eq_iff⟩

end Sys2Proof.Machine
end

section
/-! The operations of a bit sample (41_sampling.md): the whole next state of those that resolve or probe, and the compare flag. -/

namespace Sys2Proof.Machine

/-- Shifting a bit in, with the last bit as the count's value (41_sampling.md R120). -/
theorem shiftIn_eq (bit : Bool) (before r : Regs) : shiftIn bit before r =
    { r with
      frame := before.frame <<< 1 ||| (BitVec.ofBool bit).setWidth 14
      bcnt := before.bcnt + 1#4
      fsm := if before.bcnt = 12#4 then Fsm.validate else Fsm.waitBit } := by
  simp only [shiftIn, lastBit, beq_iff_eq]

/-- Settles O17: the three operations write one shift, and differ in the bit and in whether they assert the consumption. -/
theorem bitResolvingOperationsResult : Obligations.BitResolvingOperationsResult := by
  intro s i bit consumed h
  refine ⟨?result, operation_eq_iff, operation_eq_iff, operation_eq_iff⟩
  case result =>
    obtain ⟨rfl, rfl, rfl⟩ | ⟨rfl, rfl, rfl⟩ | ⟨rfl, rfl, rfl⟩ := h <;>
      rw [exec_operation_eq rfl, writesOf, shiftIn_eq] <;> rfl

/-- Settles O18: BIT_PROBE asserts the consumption, and writes `fsm` and what a re-check starts from. -/
theorem bitProbeResult : Obligations.BitProbeResult :=
  fun s => ⟨exec_operation_eq rfl s, operation_eq_iff⟩

/-- With `rst = 0` a step is the edge of the operation whose condition the registers meet. -/
theorem step_selected {i : Instr} {s : State} (hc : s.cfg.wellFormed = true) (hr : s.input.rst = false) (h : SelectedIn i s) :
    step s = .next (operationEdge i s) := by
  rw [step_operation hc hr, exec_operation (isOperation_operation s), h.operation_eq]

/-- At the timer's last value WAIT_BIT has no compare flag pending: it acts on a flag while the timer is still 0. -/
theorem Inv.cmpf_clear_at_tick {s : State} (hi : Inv s) (hf : s.regs.fsm = Fsm.waitBit)
    (ht : s.regs.tmr = s.cfg.bitCycles - 1) : s.regs.cmpf = false := by
  have hB := (wellFormed_bounds hi.config).2
  refine Bool.eq_false_iff.mpr fun hm => ?_
  have h0 := hi.waiting hf hm
  omega

/-- The re-checks are over before the next compare event falls due (41_sampling.md R122, R130). -/
theorem Inv.recheck_before_tick {s : State} (hi : Inv s) (hf : s.regs.fsm = Fsm.recheck) :
    s.regs.tmr < s.cfg.bitCycles - 1 := by
  have hB := (wellFormed_bounds hi.config).2
  obtain ⟨hx, -, ht⟩ := hi.rechecking hf
  have hlast : (s.regs.cidx.toNat + 1) * s.cfg.confCycles ≤ 2 * s.cfg.confCycles := Nat.mul_le_mul_right _ (by omega)
  omega

/-- Settles O33: the flag's rule is the background update's, and the invariant places every compare event of a pass where the flag is
clear. -/
theorem noCompareEventIsLost : Obligations.NoCompareEventIsLost := by
  intro s hi
  refine ⟨fun hr => ⟨_, step_selected hi.config hr (selectedIn_operation s), ?flag⟩, fun hf ht => ?waitBit,
    fun hf => ?recheck, fun hf => ?validate⟩
  case flag => simp only [operationEdge_cmpf, List.mem_cons, List.not_mem_nil, or_false]
  case waitBit =>
    have hm := hi.cmpf_clear_at_tick hf ht
    have hop : s.operation = .bitWait := operation_eq_iff.mpr ⟨hf, hm⟩
    simp [hm, hop]
  case recheck =>
    obtain ⟨-, hm, -⟩ := hi.rechecking hf
    exact ⟨hi.recheck_before_tick hf, hm⟩
  case validate =>
    obtain ⟨-, -, hm⟩ := hi.validating hf
    exact hm

end Sys2Proof.Machine
end

section
/-! A bit from the wait for its compare event to its resolution (41_sampling.md R130, R131). -/

namespace Sys2Proof.Machine

/-! ## Stretches of a bit -/

/-- The outputs and the outcome log of `t` are those of `s`. -/
structure SameOutputs (s t : State) : Prop where
  outCmd : t.regs.outCmd = s.regs.outCmd
  outAddr : t.regs.outAddr = s.regs.outAddr
  outTog : t.regs.outTog = s.regs.outTog
  outFrame : t.regs.outFrame = s.regs.outFrame
  outcomes : t.outcomes = s.outcomes

/-- `n` cycles lead from `s` to `t` with no bit resolved. -/
structure Unresolved (n : Nat) (s t : State) : Prop where
  run : cycles n s = .next t
  ahead : Ahead n s t
  bcnt : t.regs.bcnt = s.regs.bcnt
  frame : t.regs.frame = s.regs.frame
  outputs : SameOutputs s t

/-- `n` cycles lead from `s` to `t`, the last of them resolving the bit to `bit` and leaving the timer at `tmr` with no compare event
pending. -/
structure Resolved (n : Nat) (bit : Bool) (tmr : Nat) (s t : State) : Prop where
  run : cycles n s = .next t
  ahead : Ahead n s t
  bcnt : t.regs.bcnt = s.regs.bcnt + 1#4
  frame : t.regs.frame = s.regs.frame <<< 1 ||| (BitVec.ofBool bit).setWidth 14
  fsm : t.regs.fsm = if s.regs.bcnt = 12#4 then Fsm.validate else Fsm.waitBit
  cmpf : t.regs.cmpf = false
  timer : t.regs.tmr = tmr
  outputs : SameOutputs s t

theorem SameOutputs.trans {s t u : State} (h : SameOutputs s t) (g : SameOutputs t u) : SameOutputs s u :=
  ⟨g.outCmd.trans h.outCmd, g.outAddr.trans h.outAddr, g.outTog.trans h.outTog, g.outFrame.trans h.outFrame,
    g.outcomes.trans h.outcomes⟩

/-- A wait or a delay resolves no bit. -/
theorem Holds.unresolved {n : Nat} {s t : State} (h : Holds s t) (hrun : cycles n s = .next t) (ha : Ahead n s t) :
    Unresolved n s t :=
  ⟨hrun, ha, h.bcnt, h.frame, h.outCmd, h.outAddr, h.outTog, h.outFrame, h.outcomes⟩

theorem Unresolved.trans {m n : Nat} {s t u : State} (h : Unresolved m s t) (g : Unresolved n t u) :
    Unresolved (m + n) s u :=
  ⟨by rw [cycles_add h.run, g.run], h.ahead.trans g.ahead, g.bcnt.trans h.bcnt, g.frame.trans h.frame,
    h.outputs.trans g.outputs⟩

/-- What goes before the resolution resolves nothing, so the bit is the whole stretch's. -/
theorem Unresolved.resolved {m n tmr : Nat} {bit : Bool} {s t u : State} (h : Unresolved m s t) (g : Resolved n bit tmr t u) :
    Resolved (m + n) bit tmr s u where
  run := by rw [cycles_add h.run, g.run]
  ahead := h.ahead.trans g.ahead
  bcnt := by rw [g.bcnt, h.bcnt]
  frame := by rw [g.frame, h.frame]
  fsm := by rw [g.fsm, h.bcnt]
  cmpf := g.cmpf
  timer := g.timer
  outputs := h.outputs.trans g.outputs

theorem Resolved.congr {n n' tmr tmr' : Nat} {bit bit' : Bool} {s t : State} (h : Resolved n bit tmr s t) (hn : n' = n)
    (hbit : bit' = bit) (ht : tmr' = tmr) : Resolved n' bit' tmr' s t := by
  subst hn hbit ht
  exact h

/-! ## The operations of a bit -/

/-- The line moves on by one in every operation. -/
theorem operationEdge_ahead (i : Instr) (s : State) : Ahead 1 s (operationEdge i s) := by
  obtain ⟨hs1, hs2, -⟩ := operationEdge_synchroniser i s
  exact .one rfl rfl rfl hs1 hs2

/-- Until a compare event falls due, an operation that consumes the compare flag, or finds it clear, leaves it clear, and the timer
counts (41_sampling.md R121, R122). -/
theorem operationEdge_timer {i : Instr} {s : State} (hi : i ≠ .passStart) (ht : s.regs.tmr + 1 < s.cfg.bitCycles)
    (hm : i ∈ [.bitZero, .bitProbe] ∨ s.regs.cmpf = false) :
    (operationEdge i s).regs.tmr = s.regs.tmr + 1 ∧ (operationEdge i s).regs.cmpf = false := by
  have htick : s.regs.tmr ≠ s.cfg.bitCycles - 1 := by omega
  rw [operationEdge_tmr, operationEdge_cmpf, if_neg hi, if_neg hi, if_neg htick, if_neg htick]
  refine ⟨rfl, ?_⟩
  split_ifs with hc
  · rfl
  · exact hm.resolve_left hc

/-- An operation that records no outcome presents nothing either. -/
theorem operationEdge_sameOutputs {i : Instr} {s : State} (ho : outcomeOf i s = none) : SameOutputs s (operationEdge i s) := by
  have hi : i ≠ .frameAccept := by rintro rfl; cases ho
  obtain ⟨hcmd, haddr, htog, hframe⟩ := operationEdge_outputs_held (s := s) hi
  exact ⟨hcmd, haddr, htog, hframe, by rw [operationEdge, clockEdge_outcomes, ho, emitted_none]⟩

/-- An operation that shifts nothing in resolves no bit. -/
theorem step_unresolved {i : Instr} {s : State} (hc : s.cfg.wellFormed = true) (hr : s.NoReset 1) (hsel : SelectedIn i s)
    (hi : i ∉ [.passStart, .bitZero, .rchkZero, .rchkOne]) (ho : outcomeOf i s = none) :
    Unresolved 1 s (operationEdge i s) := by
  obtain ⟨hb, hf⟩ := operationEdge_bits_held (s := s) hi
  exact ⟨cycles_one (step_selected hc (hr.now Nat.one_pos) hsel), operationEdge_ahead i s, hb, hf,
    operationEdge_sameOutputs ho⟩

/-- An operation that shifts a bit in resolves it (41_sampling.md R120). -/
theorem step_resolved {i : Instr} {bit : Bool} {s : State} (hc : s.cfg.wellFormed = true) (hr : s.NoReset 1)
    (hsel : SelectedIn i s) (hw : writesOf i s = shiftIn bit s.regs) (ho : outcomeOf i s = none)
    (htimer : (operationEdge i s).regs.tmr = s.regs.tmr + 1 ∧ (operationEdge i s).regs.cmpf = false) :
    Resolved 1 bit (s.regs.tmr + 1) s (operationEdge i s) := by
  have hregs : (operationEdge i s).regs = shiftIn bit s.regs (background s.cfg (controlsOf i) s.input.ir s.regs) := by
    rw [operationEdge, clockEdge_regs, hw]
  obtain ⟨htmr, hcmpf⟩ := htimer
  exact {
    run := cycles_one (step_selected hc (hr.now Nat.one_pos) hsel)
    ahead := operationEdge_ahead i s
    bcnt := by rw [hregs, shiftIn_bcnt]
    frame := by rw [hregs, shiftIn_frame]
    fsm := by rw [hregs, shiftIn_eq]
    cmpf := hcmpf
    timer := htmr
    outputs := operationEdge_sameOutputs ho }

/-! ## The re-checks (41_sampling.md R126 to R129) -/

/-- RECHECK before re-check `cidx` (counted from 0), with `dcnt` cycles of its delay left, the timer at `tmr`, and no compare event
pending. -/
structure Rechecking (cidx : BitVec 2) (dcnt tmr : Nat) (s : State) : Prop where
  config : s.cfg.wellFormed = true
  fsm : s.regs.fsm = Fsm.recheck
  cidx : s.regs.cidx = cidx
  dcnt : s.regs.dcnt = dcnt
  tmr : s.regs.tmr = tmr
  cmpf : s.regs.cmpf = false

section Recheck

variable {s : State} {cidx : BitVec 2} {d tmr : Nat}

/-- The delay leads to the re-check's read, which sees the line where `s` has it ahead. -/
theorem Rechecking.delay (h : Rechecking cidx d tmr s) (hB : tmr + d < s.cfg.bitCycles) (hr : s.NoReset d) :
    ∃ t, Unresolved d s t ∧ Rechecking cidx 0 (tmr + d) t ∧ t.regs.s2 = s.lineAt d := by
  obtain ⟨t, hrun, ha, hh, hd, ht⟩ := delay_run d h.config (.inr h.fsm) h.dcnt hr
  obtain ⟨htmr, hcmpf⟩ := ht (by rw [h.tmr]; exact hB)
  exact ⟨t, hh.unresolved hrun ha, ⟨by rw [ha.cfg, h.config], hh.fsm.trans h.fsm, hh.cidx.trans h.cidx, hd,
    by rw [htmr, h.tmr], hcmpf.trans h.cmpf⟩, (ha.line 0).trans (by rw [Nat.zero_add])⟩

/-- A re-check that reads high, or is the second, resolves the bit to the inverse of what it reads. -/
theorem Rechecking.resolved (h : Rechecking cidx d tmr s) (hx : s.lineAt d = true ∨ cidx = 1#2)
    (hB : tmr + d + 1 < s.cfg.bitCycles) (hr : s.NoReset (d + 1)) :
    ∃ t, Resolved (d + 1) (!s.lineAt d) (tmr + d + 1) s t := by
  obtain ⟨u, hu, hread, hs2⟩ := h.delay (Nat.lt_of_succ_lt hB) (hr.mono (Nat.le_succ d))
  have hB' : u.regs.tmr + 1 < u.cfg.bitCycles := by rw [hread.tmr, hu.ahead.cfg]; exact hB
  have hr' : u.NoReset 1 := hu.ahead.noReset hr
  have hstep : ∃ t, Resolved 1 (!s.lineAt d) (u.regs.tmr + 1) u t := by
    cases hl : s.lineAt d with
    | true =>
      have hsel : SelectedIn .rchkZero u := ⟨hread.fsm, hread.dcnt, hs2.trans hl⟩
      exact ⟨_, step_resolved hread.config hr' hsel rfl rfl (operationEdge_timer nofun hB' (.inr hread.cmpf))⟩
    | false =>
      have hx : u.regs.cidx = 1#2 := hread.cidx.trans (hx.resolve_left (by simp [hl]))
      have hsel : SelectedIn .rchkOne u := ⟨hread.fsm, hread.dcnt, hs2.trans hl, hx⟩
      exact ⟨_, step_resolved hread.config hr' hsel rfl rfl (operationEdge_timer nofun hB' (.inr hread.cmpf))⟩
  obtain ⟨t, ht⟩ := hstep
  exact ⟨t, hu.resolved (hread.tmr ▸ ht)⟩

/-- The first re-check, reading low, leads to the second. -/
theorem Rechecking.firstLow (h : Rechecking 0#2 d tmr s) (hl : s.lineAt d = false) (hB : tmr + d + 1 < s.cfg.bitCycles)
    (hr : s.NoReset (d + 1)) :
    ∃ t, Unresolved (d + 1) s t ∧ Rechecking 1#2 (s.cfg.confCycles - 1) (tmr + d + 1) t := by
  obtain ⟨u, hu, hread, hs2⟩ := h.delay (Nat.lt_of_succ_lt hB) (hr.mono (Nat.le_succ d))
  have hB' : u.regs.tmr + 1 < u.cfg.bitCycles := by rw [hread.tmr, hu.ahead.cfg]; exact hB
  have hx : u.regs.cidx ≠ 1#2 := by rw [hread.cidx]; decide
  have hnext : Unresolved 1 u (operationEdge .rchkNext u) :=
    step_unresolved hread.config (hu.ahead.noReset hr) ⟨hread.fsm, hread.dcnt, hs2.trans hl, hx⟩ (by decide) rfl
  obtain ⟨htmr, hcmpf⟩ := operationEdge_timer (i := .rchkNext) nofun hB' (.inr hread.cmpf)
  exact ⟨_, hu.trans hnext, hread.config, hread.fsm, rfl, by rw [← hu.ahead.cfg]; rfl, by rw [htmr, hread.tmr], hcmpf⟩

end Recheck

/-! ## The reads of a bit (41_sampling.md R130, R131) -/

section Reads

variable {n q : Nat} {s t : State}

theorem Ahead.bitReadAt (h : Ahead n s t) : t.bitReadAt q = s.bitReadAt (q + n) := by
  simp only [State.bitReadAt, h.line, h.cfg, Nat.add_right_comm q n]

theorem Ahead.resolveDelayAt (h : Ahead n s t) : t.resolveDelayAt q = s.resolveDelayAt (q + n) := by
  simp only [State.resolveDelayAt, h.line, h.cfg, Nat.add_right_comm q n]

/-- A high first read resolves the bit at once. -/
theorem reads_of_first_high (h : s.lineAt q = true) : s.resolveDelayAt q = 0 ∧ s.bitReadAt q = false := by
  simp [State.resolveDelayAt, State.bitReadAt, h]

/-- A high second read resolves it then. -/
theorem reads_of_second_high (h : s.lineAt q = false) (h1 : s.lineAt (q + s.cfg.confCycles) = true) :
    s.resolveDelayAt q = s.cfg.confCycles ∧ s.bitReadAt q = false := by
  simp [State.resolveDelayAt, State.bitReadAt, h, h1]

/-- Two low reads leave the bit to the third. -/
theorem reads_of_two_low (h : s.lineAt q = false) (h1 : s.lineAt (q + s.cfg.confCycles) = false) :
    s.resolveDelayAt q = 2 * s.cfg.confCycles ∧ s.bitReadAt q = !s.lineAt (q + 2 * s.cfg.confCycles) := by
  simp [State.resolveDelayAt, State.bitReadAt, h, h1]

theorem resolveDelayAt_le (s : State) (q : Nat) : s.resolveDelayAt q ≤ 2 * s.cfg.confCycles := by
  unfold State.resolveDelayAt
  split_ifs <;> omega

end Reads

/-- BIT_PROBE starts the first re-check (41_sampling.md R125). -/
theorem probe_rechecking {s : State} (hc : s.cfg.wellFormed = true) (hf : s.regs.fsm = Fsm.waitBit) (hm : s.regs.cmpf = true)
    (hl : s.regs.s2 = false) (hB : s.regs.tmr + 1 < s.cfg.bitCycles) (hr : s.NoReset 1) :
    ∃ t, Unresolved 1 s t ∧ Rechecking 0#2 (s.cfg.confCycles - 1) (s.regs.tmr + 1) t := by
  have hsel : SelectedIn .bitProbe s := ⟨hf, hm, hl⟩
  obtain ⟨htmr, hcmpf⟩ := operationEdge_timer (i := .bitProbe) nofun hB (.inl (by decide))
  exact ⟨_, step_unresolved hc hr hsel (by decide) rfl, hc, rfl, rfl, rfl, htmr, hcmpf⟩

/-- From the cycle of its compare event, a bit resolves at the first of its three reads that is high, to 0, or else at the third,
to 1. -/
theorem reads_resolve {s : State} (hc : s.cfg.wellFormed = true) (hf : s.regs.fsm = Fsm.waitBit) (hm : s.regs.cmpf = true)
    (ht : s.regs.tmr = 0) (hr : s.NoReset (s.resolveDelayAt 0 + 1)) :
    ∃ t, Resolved (s.resolveDelayAt 0 + 1) (s.bitReadAt 0) (s.resolveDelayAt 0 + 1) s t := by
  obtain ⟨hC, hB⟩ := wellFormed_bounds hc
  obtain ⟨d, hd⟩ : ∃ d, s.cfg.confCycles = d + 1 := ⟨_, (Nat.sub_add_cancel hC).symm⟩
  cases hl0 : s.lineAt 0 with
  | true =>
    obtain ⟨hdelay, hbit⟩ := reads_of_first_high hl0
    have hsel : SelectedIn .bitZero s := ⟨hf, hm, hl0⟩
    have htimer := operationEdge_timer (i := .bitZero) (s := s) nofun (by omega) (.inl (by decide))
    have hres : Resolved 1 false (s.regs.tmr + 1) s _ := step_resolved hc (hr.mono (by omega)) hsel rfl rfl htimer
    exact ⟨_, hres.congr (by omega) hbit (by omega)⟩
  | false =>
    obtain ⟨u, hu, hcheck⟩ := probe_rechecking hc hf hm hl0 (by omega) (hr.mono (by omega))
    rw [hd, Nat.add_sub_cancel] at hcheck
    have hline : u.lineAt d = s.lineAt (0 + s.cfg.confCycles) := by rw [hu.ahead.line, hd, Nat.zero_add]
    cases hl1 : s.lineAt (0 + s.cfg.confCycles) with
    | true =>
      obtain ⟨hdelay, hbit⟩ := reads_of_second_high hl0 hl1
      obtain ⟨t, hres⟩ := hcheck.resolved (.inl (hline.trans hl1)) (by rw [hu.ahead.cfg]; omega)
        (hu.ahead.noReset (hr.mono (by omega)))
      exact ⟨t, (hu.resolved hres).congr (by omega) (by rw [hbit, hline, hl1]; rfl) (by omega)⟩
    | false =>
      obtain ⟨hdelay, hbit⟩ := reads_of_two_low hl0 hl1
      obtain ⟨v, hv, hcheck⟩ := hcheck.firstLow (hline.trans hl1) (by rw [hu.ahead.cfg]; omega)
        (hu.ahead.noReset (hr.mono (by omega)))
      rw [hu.ahead.cfg, hd, Nat.add_sub_cancel] at hcheck
      have huv := hu.trans hv
      obtain ⟨t, hres⟩ := hcheck.resolved (.inr rfl) (by rw [huv.ahead.cfg]; omega) (huv.ahead.noReset (hr.mono (by omega)))
      have hline : v.lineAt d = s.lineAt (0 + 2 * s.cfg.confCycles) := by
        rw [huv.ahead.line, hd, show d + (1 + (d + 1)) = 0 + 2 * (d + 1) by omega]
      exact ⟨t, (huv.resolved hres).congr (by omega) (by rw [hbit, hline]) (by omega)⟩

/-- A bit, from any cycle of its wait: its first read comes with the end of the timer's period. -/
theorem bit_resolves {s : State} (hc : s.cfg.wellFormed = true) (hf : s.regs.fsm = Fsm.waitBit) (hm : s.regs.cmpf = false)
    {q : Nat} (hq : s.regs.tmr + q = s.cfg.bitCycles) (hpos : 0 < q) (hr : s.NoReset (q + s.resolveDelayAt q + 1)) :
    ∃ t, Resolved (q + s.resolveDelayAt q + 1) (s.bitReadAt q) (s.resolveDelayAt q + 1) s t := by
  obtain ⟨n, rfl⟩ : ∃ n, q = n + 1 := ⟨_, (Nat.sub_add_cancel hpos).symm⟩
  obtain ⟨u, hrun, ha, hh, hmu, htu⟩ := wait_run n hc hf hm (by omega) (hr.mono (by omega))
  have hdelay : u.resolveDelayAt 0 = s.resolveDelayAt (n + 1) := by rw [ha.resolveDelayAt, Nat.zero_add]
  have hbit : u.bitReadAt 0 = s.bitReadAt (n + 1) := by rw [ha.bitReadAt, Nat.zero_add]
  obtain ⟨t, hres⟩ := reads_resolve (by rw [ha.cfg, hc]) (hh.fsm.trans hf) hmu htu
    (ha.noReset (hr.mono (by omega)))
  exact ⟨t, ((hh.unresolved hrun ha).resolved hres).congr (by omega) hbit.symm (by omega)⟩

/-- A bit as a number of the frame's width. -/
theorem ofBool_setWidth (bit : Bool) : (BitVec.ofBool bit).setWidth 14 = if bit = true then 1#14 else 0#14 := by
  cases bit <;> rfl

/-- Settles O44: the wait leads to the first read, and the reads of the line ahead decide how far the bit goes. -/
theorem bitIsResolvedFromItsThreeReads : Obligations.BitIsResolvedFromItsThreeReads := by
  intro s hc hf hm ht hr
  have hle := resolveDelayAt_le s (s.cfg.bitCycles - s.regs.tmr)
  obtain ⟨t, h⟩ := bit_resolves hc hf hm (q := s.cfg.bitCycles - s.regs.tmr) (by omega) (by omega) (hr.mono (by omega))
  exact ⟨t, h.run, by rw [h.frame, ofBool_setWidth], h.bcnt, h.fsm, h.cmpf, h.timer, h.outputs.outcomes, h.outputs.outFrame,
    h.outputs.outCmd, h.outputs.outAddr, h.outputs.outTog⟩

end Sys2Proof.Machine
end

section
/-! The operations of VALIDATE and of the illegal state codes (42_frame.md R140 to R142). -/

namespace Sys2Proof.Machine

/-- Settles O19: FRAME_ACCEPT asserts the clear and the strobe, and writes the frame's fields over the background updates. -/
theorem frameAcceptResult : Obligations.FrameAcceptResult :=
  fun s => ⟨exec_operation_eq rfl s, operation_eq_iff⟩

/-- Settles O20: FRAME_REJECT asserts the clear alone, so no strobe is given and the holding registers hold. -/
theorem frameRejectResult : Obligations.FrameRejectResult :=
  fun s => ⟨exec_operation_eq rfl s, operation_eq_iff⟩

/-- Settles O21: the two rows write and assert the same, and split the codes above VALIDATE's between them. -/
theorem illegalStateResult : Obligations.IllegalStateResult := by
  intro s i hi
  refine ⟨?result, operation_eq_iff, operation_eq_iff⟩
  case result => obtain rfl | rfl := hi <;> exact exec_operation_eq rfl s

end Sys2Proof.Machine
end

section
/-! A pass from its first cycle of WAIT_BIT to its end: 13 bits, each from its own reads, and the acceptance test of the frame they
give (42_frame.md R144). -/

namespace Sys2Proof.Machine

/-! ## Cycles that give nothing away -/

/-- `n` cycles lead from `s` to `t` with no output and no entry of the outcome log changed. -/
structure Silent (n : Nat) (s t : State) : Prop where
  run : cycles n s = .next t
  ahead : Ahead n s t
  outputs : SameOutputs s t

section Silent

variable {m n : Nat} {s t u : State}

theorem Silent.refl (s : State) : Silent 0 s s := ⟨rfl, .refl s, rfl, rfl, rfl, rfl, rfl⟩

theorem Silent.trans (h : Silent m s t) (g : Silent n t u) : Silent (m + n) s u :=
  ⟨by rw [cycles_add h.run, g.run], h.ahead.trans g.ahead, h.outputs.trans g.outputs⟩

theorem Silent.congr (h : Silent m s t) (hn : n = m) : Silent n s t := hn ▸ h

theorem Resolved.silent {tmr : Nat} {bit : Bool} (h : Resolved n bit tmr s t) : Silent n s t := ⟨h.run, h.ahead, h.outputs⟩

theorem Holds.silent (h : Holds s t) (hrun : cycles n s = .next t) (ha : Ahead n s t) : Silent n s t :=
  ⟨hrun, ha, h.outCmd, h.outAddr, h.outTog, h.outFrame, h.outcomes⟩

/-- An operation that records no outcome is silent. -/
theorem step_silent {i : Instr} (hc : s.cfg.wellFormed = true) (hr : s.NoReset 1) (hsel : SelectedIn i s)
    (ho : outcomeOf i s = none) : Silent 1 s (operationEdge i s) :=
  ⟨cycles_one (step_selected hc (hr.now Nat.one_pos) hsel), operationEdge_ahead i s, operationEdge_sameOutputs ho⟩

end Silent

/-! ## The bits of a pass -/

/-- The first cycle after PASS_START (40_edge.md R108): no bit sampled, and the bit timer at its start. -/
structure Started (s : State) : Prop where
  config : s.cfg.wellFormed = true
  fsm : s.regs.fsm = Fsm.waitBit
  cmpf : s.regs.cmpf = false
  tmr : s.regs.tmr = 0
  bcnt : s.regs.bcnt = 0#4
  frame : s.regs.frame = 1#14

/-- `n` cycles lead from the first cycle `s` of the bit timer to `t`, where `k` bits are in the frame and no compare event is pending;
the timer has gone through `k` periods. -/
structure Sampled (k n : Nat) (s t : State) : Prop where
  silent : Silent n s t
  fsm : t.regs.fsm = if k = 13 then Fsm.validate else Fsm.waitBit
  cmpf : t.regs.cmpf = false
  bcnt : t.regs.bcnt = BitVec.ofNat 4 k
  frame : t.regs.frame = s.assembledFrame k
  timer : t.regs.tmr + k * s.cfg.bitCycles = n
  tmr_lt : t.regs.tmr < s.cfg.bitCycles

section Bits

variable {k n : Nat} {s t : State}

theorem Started.sampled_zero (h : Started s) : Sampled 0 0 s s where
  silent := .refl s
  fsm := h.fsm
  cmpf := h.cmpf
  bcnt := h.bcnt
  frame := h.frame
  timer := by rw [h.tmr, Nat.zero_mul]
  tmr_lt := by have hB := (wellFormed_bounds h.config).2; have ht := h.tmr; omega

/-- The next bit's first read falls a whole number of periods after the start of the timer, however long the bits before it took. -/
theorem Sampled.next (h : Sampled k n s t) (hc : s.cfg.wellFormed = true) (hk : k ≤ 12)
    (hr : s.NoReset ((k + 1) * s.cfg.bitCycles + s.resolveDelayAt ((k + 1) * s.cfg.bitCycles) + 1)) :
    ∃ u, Sampled (k + 1) ((k + 1) * s.cfg.bitCycles + s.resolveDelayAt ((k + 1) * s.cfg.bitCycles) + 1) s u := by
  obtain ⟨-, hB⟩ := wellFormed_bounds hc
  have hle := resolveDelayAt_le s ((k + 1) * s.cfg.bitCycles)
  have ha := h.silent.ahead
  have htimer := h.timer
  have hlt := h.tmr_lt
  have hmul : (k + 1) * s.cfg.bitCycles = k * s.cfg.bitCycles + s.cfg.bitCycles := Nat.succ_mul _ _
  obtain ⟨q, hq⟩ : ∃ q, t.regs.tmr + q = s.cfg.bitCycles := ⟨_, Nat.add_sub_cancel' hlt.le⟩
  have hread : q + n = (k + 1) * s.cfg.bitCycles := by omega
  have hdelay : t.resolveDelayAt q = s.resolveDelayAt ((k + 1) * s.cfg.bitCycles) := by rw [ha.resolveDelayAt, hread]
  have hbit : t.bitReadAt q = s.bitReadAt ((k + 1) * s.cfg.bitCycles) := by rw [ha.bitReadAt, hread]
  have hf : t.regs.fsm = Fsm.waitBit := by rw [h.fsm, if_neg (by omega)]
  obtain ⟨u, hu⟩ := bit_resolves (by rw [ha.cfg, hc]) hf h.cmpf (q := q) (by rw [ha.cfg, hq]) (by omega)
    (ha.noReset (hr.mono (by omega)))
  rw [hdelay, hbit] at hu
  have hlast : BitVec.ofNat 4 k = 12#4 ↔ k + 1 = 13 := by
    rw [← BitVec.toNat_inj, BitVec.toNat_ofNat, BitVec.toNat_ofNat]
    omega
  exact ⟨u, {
    silent := (h.silent.trans hu.silent).congr (by omega)
    fsm := by rw [hu.fsm, h.bcnt, if_congr hlast rfl rfl]
    cmpf := hu.cmpf
    bcnt := by rw [hu.bcnt, h.bcnt, BitVec.ofNat_add]
    frame := by rw [hu.frame, h.frame, State.assembledFrame]
    timer := by rw [hu.timer]; omega
    tmr_lt := by rw [hu.timer]; omega }⟩

/-- All 13 bits, the last resolved where its own reads decide it. -/
theorem Started.sampled (h : Started s) (hr : s.NoReset (13 * s.cfg.bitCycles + 2 * s.cfg.confCycles + 1)) :
    ∃ t, Sampled 13 (13 * s.cfg.bitCycles + s.resolveDelayAt (13 * s.cfg.bitCycles) + 1) s t := by
  have enough {k : Nat} (hk : k ≤ 12) :
      s.NoReset ((k + 1) * s.cfg.bitCycles + s.resolveDelayAt ((k + 1) * s.cfg.bitCycles) + 1) := by
    have hle := resolveDelayAt_le s ((k + 1) * s.cfg.bitCycles)
    have hmul : (k + 1) * s.cfg.bitCycles ≤ 13 * s.cfg.bitCycles := Nat.mul_le_mul_right _ (by omega)
    exact hr.mono (by omega)
  have bits (k : Nat) (hk : k ≤ 12) : ∃ n t, Sampled k n s t := by
    induction k with
    | zero => exact ⟨0, s, h.sampled_zero⟩
    | succ k ih =>
      obtain ⟨n, t, ht⟩ := ih (by omega)
      exact ⟨_, ht.next h.config (by omega) (enough (by omega))⟩
  obtain ⟨n, t, ht⟩ := bits 12 le_rfl
  exact ht.next h.config le_rfl (enough le_rfl)

end Bits

/-! ## The end of a pass in VALIDATE (42_frame.md R140, R141) -/

/-- The ports in the cycle after FRAME_ACCEPT on the frame `f`. -/
def presentedPorts (f : BitVec 14) : Ports where
  frameValid := true
  cmd := commandField f
  addr := addressField f
  toggle := toggleField f
  frame := f
  busy := false
  wdtKick := false

/-- The ports in IDLE without a strobe, the holding registers as in `r`. -/
def restingPorts (r : Regs) : Ports := { ports r with frameValid := false, busy := false, wdtKick := false }

/-- `n` cycles lead from `s` to the end `t` of a pass, the last of them VALIDATE's on the frame `f`. -/
structure Judged (n : Nat) (f : BitVec 14) (s t : State) : Prop where
  run : cycles n s = .next t
  cycle : t.cycle = s.cycle + n
  fsm : t.regs.fsm = Fsm.idle
  pend : t.regs.pend = false
  accepted : accept s.cfg f = true →
    t.outcomes = s.outcomes ++ [⟨t.cycle - 1, .accept f⟩] ∧ ports t.regs = presentedPorts f
  rejected : accept s.cfg f = false →
    t.outcomes = s.outcomes ++ [⟨t.cycle - 1, .reject f⟩] ∧ ports t.regs = restingPorts s.regs

theorem SameOutputs.restingPorts {s t : State} (h : SameOutputs s t) : restingPorts t.regs = restingPorts s.regs := by
  simp only [Machine.restingPorts, ports, h.outCmd, h.outAddr, h.outTog, h.outFrame]

/-- What goes before the end gives nothing away, so the outputs change with the end alone. -/
theorem Silent.judged {m n : Nat} {f : BitVec 14} {s t u : State} (h : Silent m s t) (g : Judged n f t u) :
    Judged (m + n) f s u where
  run := by rw [cycles_add h.run, g.run]
  cycle := by rw [g.cycle, h.ahead.cycle, Nat.add_assoc]
  fsm := g.fsm
  pend := g.pend
  accepted := by rw [← h.ahead.cfg, ← h.outputs.outcomes]; exact g.accepted
  rejected := by rw [← h.ahead.cfg, ← h.outputs.outcomes, ← h.outputs.restingPorts]; exact g.rejected

/-- VALIDATE ends the pass in one cycle, by the acceptance test of the frame register. -/
theorem validate_judged {s : State} (hc : s.cfg.wellFormed = true) (hf : s.regs.fsm = Fsm.validate) (hr : s.NoReset 1) :
    ∃ t, Judged 1 s.regs.frame s t := by
  cases ha : accept s.cfg s.regs.frame with
  | true =>
    have hsel : SelectedIn .frameAccept s := ⟨hf, accept_iff.mp ha⟩
    exact ⟨operationEdge .frameAccept s, cycles_one (step_selected hc (hr.now Nat.one_pos) hsel), rfl, rfl, rfl,
      fun _ => ⟨rfl, rfl⟩, fun h => absurd (ha.symm.trans h) (by decide)⟩
  | false =>
    have hsel : SelectedIn .frameReject s := ⟨hf, fun h => absurd (ha.symm.trans (accept_iff.mpr h)) (by decide)⟩
    exact ⟨operationEdge .frameReject s, cycles_one (step_selected hc (hr.now Nat.one_pos) hsel), rfl, rfl, rfl,
      fun h => absurd (ha.symm.trans h) (by decide), fun _ => ⟨rfl, rfl⟩⟩

/-- A started pass ends with the frame of its read points, in the cycle after the last bit's resolution (42_frame.md R144,
70_reset_and_hazards.md R191). -/
theorem Started.judged {s : State} (h : Started s) (hr : s.NoReset (13 * s.cfg.bitCycles + 2 * s.cfg.confCycles + 2)) :
    ∃ t, Judged (13 * s.cfg.bitCycles + s.resolveDelayAt (13 * s.cfg.bitCycles) + 2) (s.assembledFrame 13) s t := by
  have hle := resolveDelayAt_le s (13 * s.cfg.bitCycles)
  obtain ⟨u, hu⟩ := h.sampled (hr.mono (by omega))
  obtain ⟨t, ht⟩ := validate_judged (by rw [hu.silent.ahead.cfg, h.config]) hu.fsm
    (hu.silent.ahead.noReset (hr.mono (by omega)))
  exact ⟨t, hu.silent.judged (hu.frame ▸ ht)⟩

/-- Settles O45: the bits one after the other, by induction on how many are behind, and then VALIDATE. -/
theorem passAssemblesFrameFromReadPoints : Obligations.PassAssemblesFrameFromReadPoints := by
  intro s hc hf hm ht hb hframe hr
  have hstarted : Started s := ⟨hc, hf, hm, ht, hb, hframe⟩
  obtain ⟨t, h⟩ := hstarted.judged hr
  have hcycle : s.cycle + 13 * s.cfg.bitCycles + s.resolveDelayAt (13 * s.cfg.bitCycles) + 1 = t.cycle - 1 := by
    rw [h.cycle]; omega
  rw [hcycle]
  exact ⟨t, h.run, h.fsm, h.pend, h.accepted, h.rejected⟩

end Sys2Proof.Machine
end

section
/-! A pass from the wait for an edge to PASS_START, where the line confirms it (40_edge.md R101 to R109). -/

namespace Sys2Proof.Machine

/-! ## The wait for an edge -/

/-- IDLE with no edge pending, the line high in the cycle before. -/
structure Armed (s : State) : Prop where
  config : s.cfg.wellFormed = true
  fsm : s.regs.fsm = Fsm.idle
  pend : s.regs.pend = false
  s3 : s.regs.s3 = true

/-- CONFIRM before the read `cidx` (counted from 0), with `dcnt` cycles of its delay left. -/
structure Confirming (cidx : BitVec 2) (dcnt : Nat) (s : State) : Prop where
  config : s.cfg.wellFormed = true
  fsm : s.regs.fsm = Fsm.confirm
  cidx : s.regs.cidx = cidx
  dcnt : s.regs.dcnt = dcnt

section Edge

variable {s : State}

/-- A high line leaves the block armed (40_edge.md R101, R103). -/
theorem Armed.run_high (n : Nat) (h : Armed s) (hl : ∀ k, k < n → s.lineAt k = true) (hr : s.NoReset n) :
    ∃ t, Silent n s t ∧ Armed t := by
  induction n generalizing s with
  | zero => exact ⟨s, .refl s, h⟩
  | succ n ih =>
    have hs2 : s.regs.s2 = true := hl 0 n.succ_pos
    have hstep : Silent 1 s (operationEdge .idleWait s) :=
      step_silent h.config (hr.mono n.succ_pos) ⟨h.fsm, h.pend⟩ rfl
    have hpend : (operationEdge .idleWait s).regs.pend = false := by simp [operationEdge_pend, hs2, h.pend]
    obtain ⟨t, hrest, ht⟩ := ih (s := operationEdge .idleWait s) ⟨h.config, h.fsm, hpend, hs2⟩
      (fun k hk => (hstep.ahead.line k).trans (hl (k + 1) (by omega)))
      (hstep.ahead.noReset (Nat.add_comm n 1 ▸ hr))
    exact ⟨t, (hstep.trans hrest).congr (Nat.add_comm n 1), ht⟩

/-- The first low cycle sets `pend`, and the next enters the pass (40_edge.md R102, R104). -/
theorem Armed.enters (h : Armed s) (hl : s.lineAt 0 = false) (hr : s.NoReset 2) :
    ∃ t, Silent 2 s t ∧ Confirming 0#2 (s.cfg.confCycles - 1) t := by
  have hs2 : s.regs.s2 = false := hl
  have hfall : Silent 1 s (operationEdge .idleWait s) :=
    step_silent h.config (hr.mono (by omega)) ⟨h.fsm, h.pend⟩ rfl
  have hpend : (operationEdge .idleWait s).regs.pend = true := by simp [operationEdge_pend, hs2, h.s3]
  have henter : Silent 1 (operationEdge .idleWait s) (operationEdge .passEnter (operationEdge .idleWait s)) :=
    step_silent h.config (hfall.ahead.noReset hr) ⟨h.fsm, hpend⟩ rfl
  exact ⟨_, hfall.trans henter, h.config, rfl, rfl, rfl⟩

end Edge

/-! ## The confirmation reads (40_edge.md R105 to R108) -/

section Confirm

variable {s : State} {cidx : BitVec 2} {d : Nat}

/-- The delay leads to the read, which sees the line where `s` has it ahead. -/
theorem Confirming.delay (h : Confirming cidx d s) (hr : s.NoReset d) :
    ∃ t, Silent d s t ∧ Confirming cidx 0 t ∧ t.regs.s2 = s.lineAt d := by
  obtain ⟨t, hrun, ha, hh, hd, -⟩ := delay_run d h.config (.inl h.fsm) h.dcnt hr
  exact ⟨t, hh.silent hrun ha, ⟨by rw [ha.cfg, h.config], hh.fsm.trans h.fsm, hh.cidx.trans h.cidx, hd⟩,
    (ha.line 0).trans (by rw [Nat.zero_add])⟩

/-- A low read before the third leads to the next. -/
theorem Confirming.next (h : Confirming cidx d s) (hl : s.lineAt d = false) (hx : cidx ≠ 2#2) (hr : s.NoReset (d + 1)) :
    ∃ t, Silent (d + 1) s t ∧ Confirming (cidx + 1#2) (s.cfg.confCycles - 1) t := by
  obtain ⟨u, hu, hread, hs2⟩ := h.delay (hr.mono (Nat.le_succ d))
  have hsel : SelectedIn .confNext u := ⟨hread.fsm, hread.dcnt, hs2.trans hl, hread.cidx ▸ hx⟩
  have hnext := step_silent hread.config (hu.ahead.noReset hr) hsel rfl
  exact ⟨_, hu.trans hnext, hread.config, hread.fsm, congrArg (· + 1#2) hread.cidx, by rw [← hu.ahead.cfg]; rfl⟩

/-- The third read, low too, starts the pass (40_edge.md R108). -/
theorem Confirming.starts (h : Confirming 2#2 d s) (hl : s.lineAt d = false) (hr : s.NoReset (d + 1)) :
    ∃ t, Silent (d + 1) s t ∧ Started t := by
  obtain ⟨u, hu, hread, hs2⟩ := h.delay (hr.mono (Nat.le_succ d))
  have hsel : SelectedIn .passStart u := ⟨hread.fsm, hread.dcnt, hs2.trans hl, hread.cidx⟩
  have hstart := step_silent hread.config (hu.ahead.noReset hr) hsel rfl
  obtain ⟨htmr, hcmpf, hbcnt, hframe⟩ := operationEdge_passStart u
  exact ⟨_, hu.trans hstart, hread.config, rfl, hcmpf, htmr, hbcnt, hframe⟩

/-- Three low reads, `CONF_CYCLES` apart, start the pass. -/
theorem Confirming.three_low (h : Confirming 0#2 d s) (hd : d + 1 = s.cfg.confCycles)
    (hl : ∀ j, j < 3 → s.lineAt (j * (d + 1) + d) = false) (hr : s.NoReset (3 * (d + 1))) :
    ∃ t, Silent (3 * (d + 1)) s t ∧ Started t := by
  obtain ⟨u, hu, h1⟩ := h.next (by simpa using hl 0 (by omega)) (by decide) (hr.mono (by omega))
  rw [← hd, Nat.add_sub_cancel] at h1
  obtain ⟨v, hv, h2⟩ := h1.next (by rw [hu.ahead.line, ← hl 1 (by omega)]; congr 1; omega) (by decide)
    (hu.ahead.noReset (hr.mono (by omega)))
  have huv := hu.trans hv
  rw [hu.ahead.cfg, ← hd, Nat.add_sub_cancel] at h2
  obtain ⟨t, ht, hstart⟩ := h2.starts (by rw [huv.ahead.line, ← hl 2 (by omega)]; congr 1; omega)
    (huv.ahead.noReset (hr.mono (by omega)))
  exact ⟨t, (huv.trans ht).congr (by omega), hstart⟩

end Confirm

/-- An armed block on a line that is high for `n` cycles, low in the next and low at the three confirmation reads starts a pass
(40_edge.md R109). -/
theorem Armed.starts {s : State} (h : Armed s) {n : Nat} (hhigh : ∀ k, k < n → s.lineAt k = true)
    (hfall : s.lineAt n = false) (hlow : ∀ j, j < 3 → s.lineAt (n + 1 + (j + 1) * s.cfg.confCycles) = false)
    (hr : s.NoReset (n + 2 + 3 * s.cfg.confCycles)) :
    ∃ t, Silent (n + 2 + 3 * s.cfg.confCycles) s t ∧ Started t := by
  obtain ⟨hC, -⟩ := wellFormed_bounds h.config
  obtain ⟨d, hd⟩ : ∃ d, s.cfg.confCycles = d + 1 := ⟨_, (Nat.sub_add_cancel hC).symm⟩
  obtain ⟨u, hu, harmed⟩ := h.run_high n hhigh (hr.mono (by omega))
  obtain ⟨v, hv, hconf⟩ := harmed.enters (by rw [hu.ahead.line, Nat.zero_add, hfall])
    (hu.ahead.noReset (hr.mono (by omega)))
  have huv := hu.trans hv
  rw [hu.ahead.cfg, hd, Nat.add_sub_cancel] at hconf
  rw [hd] at hr hlow ⊢
  obtain ⟨t, ht, hstart⟩ := hconf.three_low (by rw [huv.ahead.cfg, hd])
    (fun j hj => by rw [huv.ahead.line, ← hlow j hj]; congr 1; rw [Nat.succ_mul]; omega) (huv.ahead.noReset hr)
  exact ⟨t, huv.trans ht, hstart⟩

end Sys2Proof.Machine
end

section
/-! Frame correctness (42_frame.md R145): a frame sent with exact timing is read as sent. -/

namespace Sys2Proof.Machine

/-! ## The line while a frame is sent -/

/-- Lists of one length put end to end, by the number of the list and the place in it. -/
theorem getElem?_flatMap_of_length {α β : Type} {g : α → List β} {m : Nat} (hg : ∀ x, (g x).length = m) {l : List α} {k j : Nat}
    {x : α} (hx : l[k]? = some x) (hj : j < m) : (l.flatMap g)[k * m + j]? = (g x)[j]? := by
  induction l generalizing k with
  | nil => cases hx
  | cons y rest ih =>
    rw [List.flatMap_cons]
    cases k with
    | zero =>
      obtain rfl : y = x := Option.some.inj hx
      rw [Nat.zero_mul, Nat.zero_add, List.getElem?_append_left (by rwa [hg])]
    | succ k =>
      rw [List.getElem?_append_right (by rw [hg, Nat.succ_mul]; omega), hg,
        show (k + 1) * m + j - m = k * m + j by rw [Nat.succ_mul]; omega]
      exact ih hx

/-- A cell is the bit's own level for its first half and the inverse for its second (30_encoding.md R71). -/
theorem cellInputs_getElem? {c : Config} {b : Bool} {j : Nat} (heven : c.bitCycles % 2 = 0) (hj : j < c.bitCycles) :
    (cellInputs c b)[j]? = some ⟨if j < c.bitCycles / 2 then b else !b, false⟩ := by
  rw [cellInputs, List.getElem?_append, List.length_replicate]
  split_ifs with h
  · rw [List.getElem?_replicate_of_lt h]
  · rw [List.getElem?_replicate_of_lt (by omega)]

/-- Cell `k` of a frame is bit `13 - k`'s (20_memory.md R52). -/
theorem frameInputs_getElem? {c : Config} {f : BitVec 14} {k j : Nat} (heven : c.bitCycles % 2 = 0) (hk : k < 14)
    (hj : j < c.bitCycles) : (frameInputs c f)[k * c.bitCycles + j]? =
      some ⟨if j < c.bitCycles / 2 then f.getLsbD (13 - k) else !f.getLsbD (13 - k), false⟩ := by
  have hbit : (sentBits f)[k]? = some (f.getLsbD (13 - k)) := by
    rw [sentBits, List.getElem?_map, List.getElem?_range hk, Option.map_some]
  rw [frameInputs, getElem?_flatMap_of_length (cellInputs_length heven) hbit hj, cellInputs_getElem? heven hj]

/-- From now on the environment drives the frame `f` with exact timing under the alignment condition, after a high line
(42_frame.md R145); the cells have an even number of cycles (30_encoding.md R80). -/
structure SentFrame (f : BitVec 14) (s : State) : Prop where
  even : s.cfg.bitCycles % 2 = 0
  aligned : s.cfg.aligned = true
  startBit : f.getLsbD 13 = true
  s1 : s.regs.s1 = true
  s2 : s.regs.s2 = true
  input : ∀ k i, (frameInputs s.cfg f)[k]? = some i → s.inputAt k = i

section Sent

variable {f : BitVec 14} {s : State}

/-- The line is the frame's waveform two cycles late (40_edge.md R100). -/
theorem SentFrame.line (h : SentFrame f s) {k j : Nat} (hk : k < 14) (hj : j < s.cfg.bitCycles) :
    s.lineAt (k * s.cfg.bitCycles + j + 2) =
      if j < s.cfg.bitCycles / 2 then f.getLsbD (13 - k) else !f.getLsbD (13 - k) := by
  rw [State.lineAt, h.input _ _ (frameInputs_getElem? h.even hk hj)]

/-- In the second half of its cell a bit stands inverted on the line. -/
theorem SentFrame.line_second_half (h : SentFrame f s) {k j : Nat} (hk : k < 14) (hj : j < s.cfg.bitCycles / 2) :
    s.lineAt (k * s.cfg.bitCycles + (s.cfg.bitCycles / 2 + 2 + j)) = !f.getLsbD (13 - k) := by
  have hline := h.line hk (show s.cfg.bitCycles / 2 + j < s.cfg.bitCycles by omega)
  rw [if_neg (by omega)] at hline
  rw [← hline]
  congr 1
  omega

/-- Before the falling edge in the middle of S1's cell the line is high. -/
theorem SentFrame.line_high (h : SentFrame f s) {k : Nat} (hk : k < s.cfg.bitCycles / 2 + 2) :
    s.lineAt k = true := by
  match k with
  | 0 => exact h.s2
  | 1 => exact h.s1
  | j + 2 =>
    have hline := h.line (k := 0) (by omega) (show j < s.cfg.bitCycles by omega)
    rwa [if_pos (by omega), Nat.zero_mul, Nat.zero_add, h.startBit] at hline

/-- The alignment condition of 00_scope.md R6 as an inequality. -/
theorem aligned_bound {c : Config} (h : c.aligned = true) : 10 * c.confCycles + 6 ≤ c.bitCycles := of_decide_eq_true h

/-- How long after the frame's first cycle the bit timer starts: the fall in the middle of S1's cell reaches the line, PASS_ENTER, and
the confirmation (40_edge.md R109). -/
def timerStart (c : Config) : Nat := c.bitCycles / 2 + 2 + 2 + 3 * c.confCycles

/-- The fall in the middle of S1's cell starts a pass, which the rest of the cell confirms. -/
theorem SentFrame.starts (h : SentFrame f s) (harmed : Armed s) (hr : s.NoReset (timerStart s.cfg)) :
    ∃ t, Silent (timerStart s.cfg) s t ∧ Started t := by
  have hB := aligned_bound h.aligned
  have low {j : Nat} (hj : j < s.cfg.bitCycles / 2) : s.lineAt (s.cfg.bitCycles / 2 + 2 + j) = false := by
    have hline := h.line_second_half (k := 0) (by omega) hj
    rwa [Nat.zero_mul, Nat.zero_add, h.startBit] at hline
  refine harmed.starts (fun k hk => h.line_high hk) (low (j := 0) (by omega)) (fun j hj => ?_) hr
  have hmul : (j + 1) * s.cfg.confCycles ≤ 3 * s.cfg.confCycles := Nat.mul_le_mul_right _ (by omega)
  rw [Nat.add_assoc (s.cfg.bitCycles / 2 + 2)]
  exact low (by omega)

/-! ## The reads of a sent frame -/

/-- Three reads at one level decide a bit to its inverse. -/
theorem reads_of_level {q : Nat} {level : Bool} (h0 : s.lineAt q = level) (h1 : s.lineAt (q + s.cfg.confCycles) = level)
    (h2 : s.lineAt (q + 2 * s.cfg.confCycles) = level) :
    s.bitReadAt q = !level ∧ s.resolveDelayAt q = if level then 0 else 2 * s.cfg.confCycles := by
  cases level <;> simp [State.bitReadAt, State.resolveDelayAt, h0, h1, h2]

/-- All three reads of a bit fall into the second half of its cell, so it is read as sent. -/
theorem SentFrame.reads (h : SentFrame f s) {t : State} (ha : Ahead (timerStart s.cfg) s t) {k : Nat} (hk : k < 14) :
    t.bitReadAt (k * s.cfg.bitCycles) = f.getLsbD (13 - k) ∧
      t.resolveDelayAt (k * s.cfg.bitCycles) = if f.getLsbD (13 - k) then 2 * s.cfg.confCycles else 0 := by
  have hB := aligned_bound h.aligned
  have level {x : Nat} (hx : x ≤ 2 * s.cfg.confCycles) : t.lineAt (k * s.cfg.bitCycles + x) = !f.getLsbD (13 - k) := by
    rw [ha.line, timerStart, ← h.line_second_half hk (show 3 * s.cfg.confCycles + 2 + x < s.cfg.bitCycles / 2 by omega)]
    congr 1
    omega
  obtain ⟨hbit, hdelay⟩ := reads_of_level (q := k * s.cfg.bitCycles) (level (x := 0) (by omega))
    (by rw [ha.cfg, level (by omega)]) (by rw [ha.cfg, level le_rfl])
  rw [hbit, hdelay, ha.cfg]
  cases f.getLsbD (13 - k) <;> exact ⟨rfl, rfl⟩

/-- Shifting the next bit of `f` in below the bits above it (41_sampling.md R120). -/
theorem shiftLeft_or_next_bit (f : BitVec 14) (m : Nat) :
    f >>> (m + 1) <<< 1 ||| (BitVec.ofBool (f.getLsbD m)).setWidth 14 = f >>> m := by
  apply BitVec.eq_of_getLsbD_eq
  intro i hi
  cases i with
  | zero => simp
  | succ i => simp [hi, show m + 1 + i = m + (i + 1) by omega]

/-- The preset frame register is S1 alone (30_encoding.md R74). -/
theorem shiftRight_thirteen (hS1 : f.getLsbD 13 = true) : f >>> 13 = 1#14 := by
  apply BitVec.eq_of_getLsbD_eq
  intro i hi
  cases i with
  | zero => simp [hS1]
  | succ i => simp [BitVec.getLsbD_of_ge f (13 + (i + 1)) (by omega)]

/-- A pass that reads the bits of `f` below S1 has its top bits in the frame (42_frame.md R144). -/
theorem assembledFrame_of_reads (hS1 : f.getLsbD 13 = true)
    (hread : ∀ k, k < 14 → s.bitReadAt (k * s.cfg.bitCycles) = f.getLsbD (13 - k)) {k : Nat} (hk : k ≤ 13) :
    s.assembledFrame k = f >>> (13 - k) := by
  induction k with
  | zero => exact (shiftRight_thirteen hS1).symm
  | succ k ih =>
    rw [State.assembledFrame, ih (by omega), hread (k + 1) (by omega), show 13 - k = 13 - (k + 1) + 1 by omega,
      shiftLeft_or_next_bit]

/-- The pass that a sent frame starts ends with that frame, the last bit resolved later when it is 1. -/
theorem SentFrame.judged (h : SentFrame f s) (harmed : Armed s) (hr : s.NoReset (14 * s.cfg.bitCycles + 3)) :
    ∃ t, Judged (timerStart s.cfg + (13 * s.cfg.bitCycles + (if f.getLsbD 0 then 2 * s.cfg.confCycles else 0) + 2)) f s t := by
  have hB := aligned_bound h.aligned
  have hlen : timerStart s.cfg + (13 * s.cfg.bitCycles + 2 * s.cfg.confCycles + 2) ≤ 14 * s.cfg.bitCycles + 3 := by
    rw [timerStart]; omega
  obtain ⟨u, hu, hstarted⟩ := h.starts harmed (hr.mono (by omega))
  have hcfg := hu.ahead.cfg
  obtain ⟨t, ht⟩ := hstarted.judged (hu.ahead.noReset (hr.mono (hcfg ▸ hlen)))
  have hread {k : Nat} (hk : k < 14) := h.reads hu.ahead hk
  have hframe : u.assembledFrame 13 = f :=
    (assembledFrame_of_reads h.startBit (fun k hk => hcfg ▸ (hread hk).1) le_rfl).trans (BitVec.ushiftRight_zero f)
  obtain ⟨-, hlast⟩ := hread (k := 13) (by omega)
  rw [hcfg, hlast, hframe] at ht
  exact ⟨t, hu.judged ht⟩

end Sent

/-- Settles O47: the fall in the middle of S1's cell starts the pass, and under the alignment condition all three reads of every bit
fall into the second half of its cell. -/
theorem sentFrameIsDecodedExactly : Obligations.SentFrameIsDecodedExactly := by
  intro s s2 tog a c hc hal heven hf hp h1 h2 h3 hsent hr
  have hS1 : (frameOfFields true s2 tog a c).getLsbD 13 = true := getLsbD_frameOfFields ..
  have hlast : (frameOfFields true s2 tog a c).getLsbD 0 = c.getLsbD 0 := getLsbD_frameOfFields ..
  have hframe : SentFrame (frameOfFields true s2 tog a c) s := ⟨heven, hal, hS1, h1, h2, hsent⟩
  obtain ⟨t, h⟩ := hframe.judged ⟨hc, hf, hp, h3⟩ hr
  rw [hlast] at h
  refine ⟨t, ?run, fun hacc => ?accepted, fun hrej => ?rejected⟩
  case run =>
    rw [← h.run, timerStart]
    congr 1
    split_ifs <;> omega
  case accepted =>
    obtain ⟨houtcomes, hports⟩ := h.accepted hacc
    exact ⟨by simpa [presentedPorts] using hports, houtcomes⟩
  case rejected =>
    obtain ⟨houtcomes, hports⟩ := h.rejected hrej
    exact ⟨hports, houtcomes⟩

end Sys2Proof.Machine
end

section
/-! The outcome log (60_exceptions.md R160): what a step appends to it, and that nothing else of a step depends on it. -/

namespace Sys2Proof.Machine

/-! ## The entry of an operation -/

/-- The entries the edge of an operation appends: the outcome it records, if any, in the cycle it runs. -/
def entriesOf (i : Instr) (s : State) : List LogEntry := (outcomeOf i s).toList.map (LogEntry.mk s.cycle)

theorem emitted_eq_append (s : State) (o : Option PassOutcome) :
    emitted s o = s.outcomes ++ o.toList.map (LogEntry.mk s.cycle) := by
  cases o with
  | none => exact (List.append_nil _).symm
  | some o => rfl

theorem operationEdge_outcomes (i : Instr) (s : State) : (operationEdge i s).outcomes = s.outcomes ++ entriesOf i s :=
  emitted_eq_append s (outcomeOf i s)

/-- The table of R160, by operation. -/
theorem entriesOf_eq (i : Instr) (s : State) : entriesOf i s =
    if i = .frameAccept then [⟨s.cycle, .accept s.regs.frame⟩]
    else if i = .confNoise then [⟨s.cycle, .noise (s.regs.cidx.toNat + 1)⟩]
    else if i = .frameReject then [⟨s.cycle, .reject s.regs.frame⟩]
    else if i = .illegalState5 ∨ i = .illegalState67 then [⟨s.cycle, .illegal s.regs.fsm⟩]
    else [] := by
  cases i <;> rfl

/-! ## Another log -/

/-- The state with another outcome log. -/
def State.withLog (s : State) (log : List LogEntry) : State := { s with outcomes := log }

/-- The edge of an operation reads the log only to append to it. -/
theorem operationEdge_withLog (i : Instr) (s : State) (log : List LogEntry) :
    operationEdge i (s.withLog log) = (operationEdge i s).withLog (log ++ entriesOf i s) := by
  have hedge : operationEdge i (s.withLog log) =
      (operationEdge i s).withLog (operationEdge i (s.withLog log)).outcomes := rfl
  rw [hedge, operationEdge_outcomes]
  rfl

/-- Settles O25: a step is the reset edge or the edge of one operation; the edge appends that operation's entries to the log, whatever
the log holds. -/
theorem outcomeLogRecordsPassEnds : Obligations.OutcomeLogRecordsPassEnds := by
  refine ⟨fun s t h => ?recorded, fun _ _ _ => ⟨rfl, rfl, rfl, rfl, rfl, rfl, rfl, rfl⟩, fun s t log h => ?unread⟩
  case recorded =>
    obtain ⟨hr, rfl⟩ | ⟨hr, rfl⟩ := step_edge h
    · rw [if_pos hr, List.append_nil, resetEdge_outcomes]
    · rw [if_neg (Bool.eq_false_iff.mp hr), operationEdge_outcomes, entriesOf_eq]
  case unread =>
    have hc : s.cfg.wellFormed = true := step_next_wellFormed h
    obtain ⟨hr, rfl⟩ | ⟨hr, rfl⟩ := step_edge h
    · refine ⟨[], (List.append_nil _).symm, ?_⟩
      rw [List.append_nil]
      exact step_reset (s := s.withLog log) hc hr
    · refine ⟨entriesOf s.operation s, operationEdge_outcomes .., ?_⟩
      have hstep : step (s.withLog log) = .next (operationEdge s.operation (s.withLog log)) :=
        (step_operation (s := s.withLog log) hc hr).trans (exec_operation (isOperation_operation s) _)
      exact hstep.trans (congrArg _ (operationEdge_withLog ..))

end Sys2Proof.Machine
end

section
/-! The reset edge, and the toggle output under the default mask (70_reset_and_hazards.md R180, R189). -/

namespace Sys2Proof.Machine

/-- Settles O1: `rst` overrides the operation, and the reset edge puts `Regs.reset` in the place of every register. -/
theorem resetEdgeSetsEveryRegister : Obligations.ResetEdgeSetsEveryRegister :=
  fun s hc hr => ⟨resetEdge s, step_reset hc hr, rfl, rfl, rfl, rfl, rfl, rfl⟩

/-- Where FRAME_ACCEPT runs under the default mask, the frame's toggle bit is 0: the mask tests it (30_encoding.md R73). -/
theorem toggleField_of_operation_frameAccept {s : State} (hmask : s.cfg.acceptMask = 0x1800#14)
    (hmatch : s.cfg.acceptMatch = 0x1000#14) (ho : s.operation = .frameAccept) : toggleField s.regs.frame = false := by
  obtain ⟨-, haccept⟩ := operation_eq_iff.mp ho
  rw [hmask, hmatch] at haccept
  exact ((and_defaultMask_iff _).mp haccept).2

/-- Under the default mask every edge clears the toggle output or, with no strobe and no reset, holds it. -/
theorem step_outTog_cases {s t : State} (hmask : s.cfg.acceptMask = 0x1800#14) (hmatch : s.cfg.acceptMatch = 0x1000#14)
    (h : step s = .next t) :
    t.regs.outTog = false ∨ t.regs.valid = false ∧ s.input.rst = false ∧ t.regs.outTog = s.regs.outTog := by
  obtain ⟨-, rfl⟩ | ⟨hr, rfl⟩ := step_edge h
  · exact .inl rfl
  · by_cases ho : s.operation = .frameAccept
    · left
      rw [ho]
      exact toggleField_of_operation_frameAccept hmask hmatch ho
    · right
      obtain ⟨-, -, htog, -⟩ := operationEdge_outputs_held (s := s) ho
      exact ⟨by simp [operationEdge_valid, ho], hr, htog⟩

/-- Settles O35: an edge that gives a strobe or resets does not hold the toggle output, so it clears it, and a hold keeps a 0. -/
theorem toggleStaysZeroUnderDefaultMask : Obligations.ToggleStaysZeroUnderDefaultMask := by
  intro s t hmask hmatch h
  obtain hzero | ⟨hv, hr, htog⟩ := step_outTog_cases hmask hmatch h
  · exact ⟨fun _ => hzero, fun _ => hzero, fun _ => hzero⟩
  · exact ⟨fun hvalid => absurd hvalid (Bool.eq_false_iff.mp hv), fun hrst => absurd hrst (Bool.eq_false_iff.mp hr),
      htog.trans⟩

end Sys2Proof.Machine
end

section
/-! The state code after each operation, and that no operation outside IDLE reads `pend` (60_exceptions.md R167). -/

namespace Sys2Proof.Machine

/-! ## The next state code -/

/-- The state code an operation leads to from a cycle that selects it (10_state.md R41, 30_encoding.md R77). -/
def nextFsm (i : Instr) (s : State) : BitVec 3 :=
  match i with
  | .passEnter | .confDelay | .confNext => Fsm.confirm
  | .passStart | .bitWait => Fsm.waitBit
  | .bitProbe | .rchkDelay | .rchkNext => Fsm.recheck
  | .bitZero | .rchkZero | .rchkOne => if s.regs.bcnt = 12#4 then Fsm.validate else Fsm.waitBit
  | _ => Fsm.idle

theorem SelectedIn.edge_fsm {i : Instr} {s : State} (h : SelectedIn i s) :
    (operationEdge i s).regs.fsm = nextFsm i s := by
  cases i with
  | idleWait | confDelay | confNext | bitWait | rchkDelay | rchkNext => exact h.1
  | bitZero | rchkZero | rchkOne =>
    rw [operationEdge, clockEdge_regs, writesOf, shiftIn_eq]
    rfl
  | rc5Accept | rc5RejectS2 | rc5RejectT => exact h.elim
  | _ => rfl

/-! ## `pend` during a pass -/

/-- The state with another `pend`. -/
def State.withPend (s : State) (p : Bool) : State := { s with regs := { s.regs with pend := p } }

/-- Outside IDLE the selection does not read `pend` (30_encoding.md R77). -/
theorem operation_withPend {s : State} (p : Bool) (hf : s.regs.fsm ≠ Fsm.idle) : (s.withPend p).operation = s.operation := by
  have h := selectedIn_operation s
  refine SelectedIn.operation_eq ?_
  generalize s.operation = i at h ⊢
  cases i with
  | idleWait | passEnter => exact absurd h.1 hf
  | _ => exact h

/-- An operation's edge hands `pend` on to nothing but `pend`. -/
theorem operationEdge_withPend (i : Instr) (s : State) (p : Bool) :
    operationEdge i (s.withPend p) = (operationEdge i s).withPend (operationEdge i (s.withPend p)).regs.pend := by
  cases i <;> rfl

/-- An operation that ends the pass clears `pend` (60_exceptions.md R167). -/
theorem operationEdge_pend_of_endsPass {i : Instr} (hi : isOperation i = true) (h : endsPass i = true) (s : State) :
    (operationEdge i s).regs.pend = false := by
  cases i with
  | confNoise | frameAccept | frameReject | illegalState5 | illegalState67 => rfl
  | rc5Accept | rc5RejectS2 | rc5RejectT => exact absurd hi Bool.false_ne_true
  | _ => exact absurd h Bool.false_ne_true

/-- Settles O28: outside IDLE the same operation is selected whatever `pend` holds, and its edge passes `pend` to `pend` alone. -/
theorem pendIsNotReadDuringPass : Obligations.PendIsNotReadDuringPass := by
  intro s p hc hf
  cases hr : s.input.rst with
  | true => exact ⟨resetEdge s, false, step_reset hc hr, step_reset (s := s.withPend p) hc hr, fun _ => ⟨rfl, rfl⟩⟩
  | false =>
    have hop := isOperation_operation s
    have hs : step s = .next (operationEdge s.operation s) := (step_operation hc hr).trans (exec_operation hop s)
    have hp : step (s.withPend p) = .next (operationEdge s.operation (s.withPend p)) := by
      rw [step_operation (s := s.withPend p) hc hr, operation_withPend p hf, exec_operation hop]
    refine ⟨_, _, hs, hp.trans (congrArg _ (operationEdge_withPend ..)), fun h => ?_⟩
    exact ⟨operationEdge_pend_of_endsPass hop h s, operationEdge_pend_of_endsPass hop h _⟩

end Sys2Proof.Machine
end

section
/-! Hidden registers (10_state.md R38): what no operation of the current state reads, the outside never sees. -/

namespace Sys2Proof.Machine

theorem SameFuture.refl (r : Regs) : SameFuture r r :=
  ⟨rfl, rfl, rfl, rfl, rfl, rfl, fun _ => ⟨rfl, rfl⟩, fun _ => ⟨rfl, rfl, rfl⟩, fun _ => rfl⟩

section Hidden

variable {i : Instr} {s t : State}

/-- The selection reads no hidden register (30_encoding.md R77). -/
theorem SelectedIn.of_sameFuture (hsel : SelectedIn i s) (hcfg : s.cfg = t.cfg) (h : SameFuture s.regs t.regs) :
    SelectedIn i t := by
  cases i with
  | idleWait | passEnter =>
    obtain ⟨hf, hp⟩ := hsel
    exact ⟨h.fsm ▸ hf, h.pend ▸ hp⟩
  | confDelay =>
    obtain ⟨hf, hd⟩ := hsel
    exact ⟨h.fsm ▸ hf, (h.delays (.inl hf)).1 ▸ hd⟩
  | confNoise =>
    obtain ⟨hf, hd, hl⟩ := hsel
    exact ⟨h.fsm ▸ hf, (h.delays (.inl hf)).1 ▸ hd, h.s2 ▸ hl⟩
  | confNext | passStart =>
    obtain ⟨hf, hd, hl, hx⟩ := hsel
    obtain ⟨ed, ex⟩ := h.delays (.inl hf)
    exact ⟨h.fsm ▸ hf, ed ▸ hd, h.s2 ▸ hl, ex ▸ hx⟩
  | bitWait =>
    obtain ⟨hf, hm⟩ := hsel
    obtain ⟨-, em, -⟩ := h.timing (.inl hf)
    exact ⟨h.fsm ▸ hf, em ▸ hm⟩
  | bitZero | bitProbe =>
    obtain ⟨hf, hm, hl⟩ := hsel
    obtain ⟨-, em, -⟩ := h.timing (.inl hf)
    exact ⟨h.fsm ▸ hf, em ▸ hm, h.s2 ▸ hl⟩
  | rchkDelay =>
    obtain ⟨hf, hd⟩ := hsel
    exact ⟨h.fsm ▸ hf, (h.delays (.inr hf)).1 ▸ hd⟩
  | rchkZero =>
    obtain ⟨hf, hd, hl⟩ := hsel
    exact ⟨h.fsm ▸ hf, (h.delays (.inr hf)).1 ▸ hd, h.s2 ▸ hl⟩
  | rchkNext | rchkOne =>
    obtain ⟨hf, hd, hl, hx⟩ := hsel
    obtain ⟨ed, ex⟩ := h.delays (.inr hf)
    exact ⟨h.fsm ▸ hf, ed ▸ hd, h.s2 ▸ hl, ex ▸ hx⟩
  | frameAccept | frameReject =>
    obtain ⟨hf, ha⟩ := hsel
    exact ⟨h.fsm ▸ hf, hcfg ▸ h.frame (.inr (.inr hf)) ▸ ha⟩
  | illegalState5 => exact h.fsm.symm.trans hsel
  | illegalState67 => exact hsel.imp h.fsm.symm.trans h.fsm.symm.trans
  | rc5Accept | rc5RejectS2 | rc5RejectT => exact hsel.elim

/-- Where the next state is CONFIRM or RECHECK, the delay counter and the index are loaded, or come from the same state. -/
theorem SameFuture.edge_delays (h : SameFuture s.regs t.regs) (hcfg : s.cfg = t.cfg) (hsel : SelectedIn i s)
    (hf : nextFsm i s = Fsm.confirm ∨ nextFsm i s = Fsm.recheck) :
    (operationEdge i s).regs.dcnt = (operationEdge i t).regs.dcnt ∧
      (operationEdge i s).regs.cidx = (operationEdge i t).regs.cidx := by
  have hload : s.cfg.confCycles - 1 = t.cfg.confCycles - 1 := by rw [hcfg]
  cases i with
  | passEnter | bitProbe | rchkNext => exact ⟨hload, rfl⟩
  | confNext => exact ⟨hload, congrArg (· + 1#2) (h.delays (.inl hsel.1)).2⟩
  | confDelay =>
    obtain ⟨ed, ex⟩ := h.delays (.inl hsel.1)
    exact ⟨congrArg (· - 1) ed, ex⟩
  | rchkDelay =>
    obtain ⟨ed, ex⟩ := h.delays (.inr hsel.1)
    exact ⟨congrArg (· - 1) ed, ex⟩
  | bitZero | rchkZero | rchkOne => rw [nextFsm] at hf; split_ifs at hf <;> simp at hf
  | _ => simp [nextFsm] at hf

/-- Where the next state is WAIT_BIT or RECHECK, the timer, the compare flag and the bit count start afresh, or come from one of these
states. -/
theorem SameFuture.edge_timing (h : SameFuture s.regs t.regs) (hcfg : s.cfg = t.cfg) (hsel : SelectedIn i s)
    (hf : nextFsm i s = Fsm.waitBit ∨ nextFsm i s = Fsm.recheck) :
    (operationEdge i s).regs.tmr = (operationEdge i t).regs.tmr ∧
      (operationEdge i s).regs.cmpf = (operationEdge i t).regs.cmpf ∧
      (operationEdge i s).regs.bcnt = (operationEdge i t).regs.bcnt := by
  have from_pass (hs : s.regs.fsm = Fsm.waitBit ∨ s.regs.fsm = Fsm.recheck) :
      (operationEdge i s).regs.tmr = (operationEdge i t).regs.tmr ∧
        (operationEdge i s).regs.cmpf = (operationEdge i t).regs.cmpf ∧ s.regs.bcnt = t.regs.bcnt := by
    obtain ⟨et, em, eb⟩ := h.timing hs
    simp only [operationEdge_tmr, operationEdge_cmpf, et, em, eb, hcfg, and_self]
  cases i with
  | passStart => exact ⟨rfl, rfl, rfl⟩
  | bitWait | bitProbe => exact from_pass (.inl hsel.1)
  | rchkDelay | rchkNext => exact from_pass (.inr hsel.1)
  | bitZero =>
    obtain ⟨et, em, eb⟩ := from_pass (.inl hsel.1)
    exact ⟨et, em, congrArg (· + 1#4) eb⟩
  | rchkZero | rchkOne =>
    obtain ⟨et, em, eb⟩ := from_pass (.inr hsel.1)
    exact ⟨et, em, congrArg (· + 1#4) eb⟩
  | _ => simp [nextFsm] at hf

/-- Where the next state reads the frame, it is preset or comes from a state that does so too. -/
theorem SameFuture.edge_frame (h : SameFuture s.regs t.regs) (hsel : SelectedIn i s)
    (hf : nextFsm i s = Fsm.waitBit ∨ nextFsm i s = Fsm.recheck ∨ nextFsm i s = Fsm.validate) :
    (operationEdge i s).regs.frame = (operationEdge i t).regs.frame := by
  cases i with
  | passStart => rfl
  | bitWait | bitProbe => exact h.frame (.inl hsel.1)
  | rchkDelay | rchkNext => exact h.frame (.inr (.inl hsel.1))
  | bitZero => simp only [operationEdge, clockEdge_regs, writesOf, shiftIn_frame, h.frame (.inl hsel.1)]
  | rchkZero | rchkOne =>
    simp only [operationEdge, clockEdge_regs, writesOf, shiftIn_frame, h.frame (.inr (.inl hsel.1))]
  | _ => simp [nextFsm] at hf

/-- The next state code depends on the bit count only where it is read. -/
theorem SameFuture.nextFsm_eq (h : SameFuture s.regs t.regs) (hsel : SelectedIn i s) : nextFsm i s = nextFsm i t := by
  cases i with
  | bitZero =>
    obtain ⟨-, -, eb⟩ := h.timing (.inl hsel.1)
    rw [nextFsm, nextFsm, eb]
  | rchkZero | rchkOne =>
    obtain ⟨-, -, eb⟩ := h.timing (.inr hsel.1)
    rw [nextFsm, nextFsm, eb]
  | _ => rfl

/-- FRAME_ACCEPT presents the frame VALIDATE reads, and every other operation holds the holding registers. -/
theorem SameFuture.edge_ports (h : SameFuture s.regs t.regs) (hsel : SelectedIn i s)
    (hf : (operationEdge i s).regs.fsm = (operationEdge i t).regs.fsm) :
    ports (operationEdge i s).regs = ports (operationEdge i t).regs := by
  by_cases hi : i = .frameAccept
  · subst hi
    exact congrArg presentedPorts (h.frame (.inr (.inr hsel.1)))
  · obtain ⟨sc, sa, st, sf⟩ := operationEdge_outputs_held (s := s) hi
    obtain ⟨tc, ta, tt, tf⟩ := operationEdge_outputs_held (s := t) hi
    have hout := h.outputs
    simp only [ports, Ports.mk.injEq] at hout
    obtain ⟨-, ec, ea, et, ef, -, -⟩ := hout
    simp only [ports, busy, operationEdge_valid, operationEdge_kick, hf, sc, sa, st, sf, tc, ta, tt, tf, ec, ea, et, ef]

/-- The recorded outcome is made of what the selected state reads. -/
theorem SameFuture.outcomeOf_eq (h : SameFuture s.regs t.regs) (hsel : SelectedIn i s) : outcomeOf i s = outcomeOf i t := by
  cases i with
  | confNoise => exact congrArg (fun x => some (PassOutcome.noise (x.toNat + 1))) (h.delays (.inl hsel.1)).2
  | frameAccept => exact congrArg (fun f => some (PassOutcome.accept f)) (h.frame (.inr (.inr hsel.1)))
  | frameReject => exact congrArg (fun f => some (PassOutcome.reject f)) (h.frame (.inr (.inr hsel.1)))
  | illegalState5 | illegalState67 => exact congrArg (fun f => some (PassOutcome.illegal f)) h.fsm
  | _ => rfl

/-- Two machines that read the same run the same operation to registers that read the same. -/
theorem SameFuture.edge (h : SameFuture s.regs t.regs) (hcfg : s.cfg = t.cfg) (hin : s.input = t.input)
    (hsel : SelectedIn i s) : SameFuture (operationEdge i s).regs (operationEdge i t).regs := by
  have hfsm := hsel.edge_fsm
  have hf : (operationEdge i s).regs.fsm = (operationEdge i t).regs.fsm := by
    rw [hfsm, (hsel.of_sameFuture hcfg h).edge_fsm, h.nextFsm_eq hsel]
  obtain ⟨s1, s2, s3⟩ := operationEdge_synchroniser i s
  obtain ⟨t1, t2, t3⟩ := operationEdge_synchroniser i t
  exact {
    s1 := by rw [s1, t1, hin]
    s2 := by rw [s2, t2, h.s1]
    s3 := by rw [s3, t3, h.s2]
    pend := by rw [operationEdge_pend, operationEdge_pend, h.s2, h.s3, h.pend]
    fsm := hf
    outputs := h.edge_ports hsel hf
    delays := by rw [hfsm]; exact h.edge_delays hcfg hsel
    timing := by rw [hfsm]; exact h.edge_timing hcfg hsel
    frame := by rw [hfsm]; exact h.edge_frame hsel }

end Hidden

/-- Settles O29: the selected operation reads no hidden register, and what the next state reads is loaded, or was read before. -/
theorem hiddenRegistersStayUnobservable : Obligations.HiddenRegistersStayUnobservable := by
  rintro s t ⟨hcfg, hcycle, hstim, hlog, h⟩
  have hin : s.input = t.input := by rw [State.input, State.input, State.inputAt, State.inputAt, hcycle, hstim]
  cases hc : s.cfg.wellFormed with
  | false => exact .inl ⟨by simp [step, hc], by simp [step, ← hcfg, hc]⟩
  | true =>
    right
    have hct : t.cfg.wellFormed = true := hcfg ▸ hc
    cases hr : s.input.rst with
    | true =>
      exact ⟨_, _, step_reset hc hr, step_reset hct (hin ▸ hr), ⟨hcfg, congrArg (· + 1) hcycle, congrArg List.tail hstim, hlog,
        .refl _⟩, rfl⟩
    | false =>
      have hsel := selectedIn_operation s
      have hregs := h.edge hcfg hin hsel
      refine ⟨_, _, step_selected hc hr hsel, step_selected hct (hin ▸ hr) (hsel.of_sameFuture hcfg h), ⟨hcfg,
        congrArg (· + 1) hcycle, congrArg List.tail hstim, ?outcomes, hregs⟩, hregs.outputs⟩
      rw [operationEdge_outcomes, operationEdge_outcomes, entriesOf, entriesOf, hlog, hcycle, h.outcomeOf_eq hsel]

end Sys2Proof.Machine
end

section
/-! The invariant: it holds at reset, and every step keeps it (00_scope.md R7, 10_state.md R24 to R29, 41_sampling.md R122, R130). -/

namespace Sys2Proof.Machine

/-! ## The shape of a pass

The clauses of the invariant that depend on the state code, and what has to be shown of them in each state. -/

/-- At most 12 bits are behind, and S1 stands just above them in the frame register (10_state.md R28, R29). -/
def S1AboveBits (r : Regs) : Prop := r.bcnt.toNat ≤ 12 ∧ r.frame.toNat / 2 ^ r.bcnt.toNat = 1

/-- The next re-check reads at its fixed timer value, with no compare event pending (41_sampling.md R122, R130 item 2). -/
def RechecksOnTime (s : State) : Prop :=
  s.regs.cidx.toNat ≤ 1 ∧ s.regs.cmpf = false ∧ s.regs.tmr + s.regs.dcnt = (s.regs.cidx.toNat + 1) * s.cfg.confCycles

/-- The registers of a pass fit together as `Inv` says. -/
structure PassShape (s : State) : Prop where
  legal : s.regs.fsm.toNat ≤ 4
  pending : s.regs.fsm ≠ Fsm.idle → s.regs.pend = true
  sampling : s.regs.fsm = Fsm.waitBit ∨ s.regs.fsm = Fsm.recheck → S1AboveBits s.regs
  waiting : s.regs.fsm = Fsm.waitBit → s.regs.cmpf = true → s.regs.tmr = 0
  rechecking : s.regs.fsm = Fsm.recheck → RechecksOnTime s
  validating : s.regs.fsm = Fsm.validate → s.regs.bcnt = 13#4 ∧ s.regs.frame.getLsbD 13 = true ∧ s.regs.cmpf = false

section States

variable {s : State}

theorem PassShape.of_idle (hf : s.regs.fsm = Fsm.idle) : PassShape s := by constructor <;> simp [hf]

theorem PassShape.of_confirm (hf : s.regs.fsm = Fsm.confirm) (hp : s.regs.pend = true) : PassShape s := by
  constructor <;> simp [hf, hp]

theorem PassShape.of_waitBit (hf : s.regs.fsm = Fsm.waitBit) (hp : s.regs.pend = true)
    (hbits : S1AboveBits s.regs) (hwait : s.regs.cmpf = true → s.regs.tmr = 0) : PassShape s where
  legal := by simp [hf]
  pending _ := hp
  sampling _ := hbits
  waiting _ := hwait
  rechecking := by simp [hf]
  validating := by simp [hf]

theorem PassShape.of_recheck (hf : s.regs.fsm = Fsm.recheck) (hp : s.regs.pend = true)
    (hbits : S1AboveBits s.regs) (hcheck : RechecksOnTime s) : PassShape s where
  legal := by simp [hf]
  pending _ := hp
  sampling _ := hbits
  waiting := by simp [hf]
  rechecking _ := hcheck
  validating := by simp [hf]

theorem PassShape.of_validate (hf : s.regs.fsm = Fsm.validate) (hp : s.regs.pend = true)
    (hframe : s.regs.bcnt = 13#4 ∧ s.regs.frame.getLsbD 13 = true ∧ s.regs.cmpf = false) : PassShape s where
  legal := by simp [hf]
  pending _ := hp
  sampling := by simp [hf]
  waiting := by simp [hf]
  rechecking := by simp [hf]
  validating _ := hframe

/-- A resolved bit keeps the shape: S1 moves up with the count, and reaches bit 13 with the 13th (10_state.md R29). -/
theorem Resolved.passShape {n tmr : Nat} {bit : Bool} {t : State} (h : Resolved n bit tmr s t) (hp : t.regs.pend = true)
    (hbits : S1AboveBits s.regs) : PassShape t := by
  obtain ⟨hcount, htop⟩ := hbits
  have hb : t.regs.bcnt.toNat = s.regs.bcnt.toNat + 1 := by rw [h.bcnt, toNat_count _ (by omega)]
  have htop : t.regs.frame.toNat / 2 ^ (s.regs.bcnt.toNat + 1) = 1 := h.frame ▸ shifted_top bit hcount htop
  by_cases hlast : s.regs.bcnt = 12#4
  · refine .of_validate (by rw [h.fsm, if_pos hlast]) hp ⟨by rw [h.bcnt, hlast]; rfl, top_bit13 ?_, h.cmpf⟩
    rwa [hlast] at htop
  · have hne : s.regs.bcnt.toNat ≠ 12 := fun e => hlast (BitVec.eq_of_toNat_eq e)
    refine .of_waitBit (by rw [h.fsm, if_neg hlast]) hp ⟨by omega, hb ▸ htop⟩ fun hm => ?_
    exact absurd (h.cmpf.symm.trans hm) Bool.false_ne_true

end States

/-! ## The shape after an operation -/

section Edge

variable {i : Instr} {s : State}

/-- An operation that does not end the pass leaves a set `pend` set (40_edge.md R102). -/
theorem operationEdge_pend_kept (hp : s.regs.pend = true)
    (hi : i ∉ [.confNoise, .frameAccept, .frameReject, .illegalState5, .illegalState67]) :
    (operationEdge i s).regs.pend = true := by
  rw [operationEdge_pend, if_neg hi, hp, ite_self]

/-- Waiting for a compare event: the flag is set at the end of the timer's period, where the timer starts again. -/
theorem bitWait_waiting (hm : s.regs.cmpf = false) (h : (operationEdge .bitWait s).regs.cmpf = true) :
    (operationEdge .bitWait s).regs.tmr = 0 := by
  have htick : s.regs.tmr = s.cfg.bitCycles - 1 := by simpa [operationEdge_cmpf, hm] using h
  simp [operationEdge_tmr, htick]

/-- An operation that acts on a compare event meets the timer at 0, so the flag it consumes is not set again. -/
theorem Inv.timer_of_compare (hi : Inv s) (hs : s.regs.fsm = Fsm.waitBit) (hm : s.regs.cmpf = true)
    (h : i ∈ [.bitZero, .bitProbe]) :
    (operationEdge i s).regs.tmr = s.regs.tmr + 1 ∧ (operationEdge i s).regs.cmpf = false := by
  have hB := (wellFormed_bounds hi.config).2
  have h0 := hi.waiting hs hm
  exact operationEdge_timer (by rintro rfl; simp at h) (by omega) (.inl h)

/-- In RECHECK the timer counts, and no compare event falls due. -/
theorem Inv.timer_of_recheck (hi : Inv s) (hs : s.regs.fsm = Fsm.recheck) (h : i ≠ .passStart) :
    (operationEdge i s).regs.tmr = s.regs.tmr + 1 ∧ (operationEdge i s).regs.cmpf = false := by
  have htick := hi.recheck_before_tick hs
  obtain ⟨-, hm, -⟩ := hi.rechecking hs
  exact operationEdge_timer h (by omega) (.inr hm)

/-- The operations that shift a bit in resolve it in one cycle, with the timer counting on. -/
theorem Inv.resolves (hi : Inv s) (hr : s.NoReset 1) (hsel : SelectedIn i s) (h : i ∈ [.bitZero, .rchkZero, .rchkOne]) :
    ∃ bit, Resolved 1 bit (s.regs.tmr + 1) s (operationEdge i s) := by
  cases i with
  | bitZero =>
    have ⟨hs, hm, _⟩ := hsel
    exact ⟨_, step_resolved hi.config hr hsel rfl rfl (hi.timer_of_compare hs hm (by decide))⟩
  | rchkZero | rchkOne => exact ⟨_, step_resolved hi.config hr hsel rfl rfl (hi.timer_of_recheck hsel.1 nofun)⟩
  | _ => simp at h

theorem noReset_one (hr : s.input.rst = false) : s.NoReset 1 := fun k hk => by rw [Nat.lt_one_iff.mp hk]; exact hr

/-- BIT_PROBE loads the delay of the first re-check, which reads `CONF_CYCLES` after the compare event. -/
theorem Inv.rechecksOnTime_bitProbe (hi : Inv s) (hsel : SelectedIn .bitProbe s) :
    RechecksOnTime (operationEdge .bitProbe s) := by
  obtain ⟨hs, hm, -⟩ := hsel
  obtain ⟨htmr, hcmpf⟩ := hi.timer_of_compare (i := .bitProbe) hs hm (by decide)
  refine ⟨Nat.zero_le _, hcmpf, ?_⟩
  have hC := (wellFormed_bounds hi.config).1
  rw [htmr, hi.waiting hs hm]
  show 0 + 1 + (s.cfg.confCycles - 1) = (0 + 1) * s.cfg.confCycles
  omega

/-- RCHK_DELAY counts the delay down and the timer up. -/
theorem Inv.rechecksOnTime_rchkDelay (hi : Inv s) (hsel : SelectedIn .rchkDelay s) :
    RechecksOnTime (operationEdge .rchkDelay s) := by
  obtain ⟨hs, hd⟩ := hsel
  obtain ⟨hx, -, ht⟩ := hi.rechecking hs
  obtain ⟨htmr, hcmpf⟩ := hi.timer_of_recheck (i := .rchkDelay) hs nofun
  refine ⟨hx, hcmpf, ?_⟩
  rw [htmr]
  show s.regs.tmr + 1 + (s.regs.dcnt - 1) = (s.regs.cidx.toNat + 1) * s.cfg.confCycles
  omega

/-- The index of the re-checks is 0 or 1. -/
theorem index_zero {x : BitVec 2} (h : x.toNat ≤ 1) (hne : x ≠ 1#2) : x = 0#2 := by
  revert x
  decide

/-- RCHK_NEXT loads the delay of the second re-check, `CONF_CYCLES` after the first. -/
theorem Inv.rechecksOnTime_rchkNext (hi : Inv s) (hsel : SelectedIn .rchkNext s) :
    RechecksOnTime (operationEdge .rchkNext s) := by
  obtain ⟨hs, hd, -, hne⟩ := hsel
  obtain ⟨hx, -, ht⟩ := hi.rechecking hs
  obtain ⟨htmr, hcmpf⟩ := hi.timer_of_recheck (i := .rchkNext) hs nofun
  refine ⟨le_rfl, hcmpf, ?_⟩
  have hC := (wellFormed_bounds hi.config).1
  have ht : s.regs.tmr + 0 = (0 + 1) * s.cfg.confCycles := by rwa [index_zero hx hne, hd] at ht
  rw [htmr]
  show s.regs.tmr + 1 + (s.cfg.confCycles - 1) = (1 + 1) * s.cfg.confCycles
  omega

/-- Every operation keeps the shape. -/
theorem Inv.edge_passShape (hi : Inv s) (hr : s.input.rst = false) (hsel : SelectedIn i s) :
    PassShape (operationEdge i s) := by
  have hf := hsel.edge_fsm
  have hpend (hs : s.regs.fsm ≠ Fsm.idle) := operationEdge_pend_kept (i := i) (hi.pending hs)
  have hresolved := hi.resolves (noReset_one hr) hsel
  cases i with
  | idleWait | confNoise | frameAccept | frameReject | illegalState5 | illegalState67 => exact .of_idle hf
  | passEnter => exact .of_confirm hf (operationEdge_pend_kept hsel.2 (by decide))
  | confDelay | confNext => exact .of_confirm hf (hpend (by simp [hsel.1]) (by decide))
  | passStart =>
    obtain ⟨htmr, -, hb, hframe⟩ := operationEdge_passStart s
    exact .of_waitBit hf (hpend (by simp [hsel.1]) (by decide)) (by rw [S1AboveBits, hb, hframe]; decide) fun _ => htmr
  | bitWait =>
    exact .of_waitBit hf (hpend (by simp [hsel.1]) (by decide)) (hi.sampling (.inl hsel.1)) (bitWait_waiting hsel.2)
  | bitProbe =>
    exact .of_recheck hf (hpend (by simp [hsel.1]) (by decide)) (hi.sampling (.inl hsel.1)) (hi.rechecksOnTime_bitProbe hsel)
  | rchkDelay =>
    exact .of_recheck hf (hpend (by simp [hsel.1]) (by decide)) (hi.sampling (.inr hsel.1)) (hi.rechecksOnTime_rchkDelay hsel)
  | rchkNext =>
    exact .of_recheck hf (hpend (by simp [hsel.1]) (by decide)) (hi.sampling (.inr hsel.1)) (hi.rechecksOnTime_rchkNext hsel)
  | bitZero =>
    obtain ⟨bit, h⟩ := hresolved (by decide)
    exact h.passShape (hpend (by simp [hsel.1]) (by decide)) (hi.sampling (.inl hsel.1))
  | rchkZero | rchkOne =>
    obtain ⟨bit, h⟩ := hresolved (by decide)
    exact h.passShape (hpend (by simp [hsel.1]) (by decide)) (hi.sampling (.inr hsel.1))
  | rc5Accept | rc5RejectS2 | rc5RejectT => exact hsel.elim

end Edge

/-! ## The outputs -/

/-- The holding registers are the fields of the accepted-frame register (20_memory.md R54). -/
def FieldsOfOneFrame (r : Regs) : Prop :=
  r.outCmd = commandField r.outFrame ∧ r.outAddr = addressField r.outFrame ∧ r.outTog = toggleField r.outFrame

theorem fieldsOfOneFrame_reset : FieldsOfOneFrame .reset := ⟨rfl, rfl, rfl⟩

theorem operationEdge_fieldsOfOneFrame {s : State} (h : FieldsOfOneFrame s.regs) (i : Instr) :
    FieldsOfOneFrame (operationEdge i s).regs := by
  by_cases hi : i = .frameAccept
  · subst hi
    exact ⟨rfl, rfl, rfl⟩
  · obtain ⟨hcmd, haddr, htog, hframe⟩ := operationEdge_outputs_held (s := s) hi
    rwa [FieldsOfOneFrame, hcmd, haddr, htog, hframe]

/-- A strobe stands in the cycle after a frame that was accepted (42_frame.md R140). -/
theorem step_strobing {s t : State} (h : step s = .next t) (hv : t.regs.valid = true) :
    t.regs.fsm = Fsm.idle ∧ t.regs.pend = false ∧ accept t.cfg t.regs.outFrame = true := by
  obtain ⟨-, haccept⟩ := operation_eq_iff.mp ((step_valid_iff h).mp hv).2
  rw [acceptFrame_of_valid h hv]
  exact ⟨rfl, rfl, accept_iff.mpr haccept⟩

/-! ## The invariant -/

/-- The invariant from its parts: the configuration, the counters' ranges, the shape of the pass, the strobes and the outputs. -/
theorem inv_of_parts {s : State} (hc : s.cfg.wellFormed = true) (hcount : CountersInRange s) (hshape : PassShape s)
    (hstrobe : s.regs.valid = true → s.regs.fsm = Fsm.idle ∧ s.regs.pend = false ∧ accept s.cfg s.regs.outFrame = true)
    (hkick : s.regs.kick = true → s.regs.fsm = Fsm.confirm) (hout : FieldsOfOneFrame s.regs) : Inv s where
  config := hc
  delay := hcount.delay
  timer := hcount.timer
  index := hcount.index
  count := hcount.count
  legal := hshape.legal
  pending := hshape.pending
  sampling := hshape.sampling
  waiting := hshape.waiting
  rechecking := hshape.rechecking
  validating := hshape.validating
  strobing := hstrobe
  kicking := hkick
  outputs := hout

/-- Reset leaves no pass running, no strobe standing, and the fields of the frame 0 at the outputs. -/
theorem inv_of_reset {s : State} (hc : s.cfg.wellFormed = true) (hregs : s.regs = .reset) : Inv s := by
  obtain ⟨cfg, regs, cycle, stim, log⟩ := s
  obtain rfl : regs = .reset := hregs
  obtain ⟨hC, hB⟩ := wellFormed_bounds hc
  exact inv_of_parts hc ⟨hC, Nat.zero_lt_of_lt hB, Nat.zero_le _, Nat.zero_le _⟩ (.of_idle rfl)
    (fun hv => absurd hv Bool.false_ne_true) (fun hk => absurd hk Bool.false_ne_true) fieldsOfOneFrame_reset

/-- Settles O30: the reset registers meet the invariant under every well-formed configuration, `State.reset`'s among them. -/
theorem invariantHoldsAtReset : Obligations.InvariantHoldsAtReset :=
  ⟨fun _ _ hc => inv_of_reset hc rfl, inv_of_reset (by decide) rfl⟩

/-- The edge of the selected operation keeps the invariant. -/
theorem Inv.edge {s : State} (hi : Inv s) (hr : s.input.rst = false) : Inv (operationEdge s.operation s) := by
  have hsel := selectedIn_operation s
  have hstep := step_selected hi.config hr hsel
  exact inv_of_parts hi.config (step_countersInRange hi hstep) (hi.edge_passShape hr hsel) (step_strobing hstep)
    (fun hk => by rw [enterPass_of_kick hstep hk]; rfl) (operationEdge_fieldsOfOneFrame hi.outputs _)

/-- Settles O31: a reset edge starts the invariant anew, and the edge of an operation keeps the counters' ranges, the shape of the pass
and the outputs. -/
theorem everyStepKeepsInvariant : Obligations.EveryStepKeepsInvariant := by
  intro s t hi h
  obtain ⟨-, rfl⟩ | ⟨hr, rfl⟩ := step_edge h
  · exact inv_of_reset hi.config rfl
  · exact hi.edge hr

end Sys2Proof.Machine
end

section
/-! How far apart strobes are (20_memory.md R57, 70_reset_and_hazards.md R183, R186): a lower bound on the cycles to the next VALIDATE,
which no step takes more than one from. -/

namespace Sys2Proof.Machine

/-- The least number of cycles until VALIDATE, whatever the environment does: from IDLE the fall still to come, the entry and the
confirmation, and 13 periods of the bit timer; from a running pass, the part of these still ahead. -/
def cyclesToValidate (c : Config) (r : Regs) : Nat :=
  if r.fsm = Fsm.idle then
    13 * c.bitCycles + 3 * c.confCycles + if r.pend then 2 else if r.s2 then (if r.s1 then 5 else 4) else 3
  else if r.fsm = Fsm.confirm then 13 * c.bitCycles + (2 - r.cidx.toNat) * c.confCycles + r.dcnt + 2
  else if r.fsm = Fsm.waitBit then ((if r.cmpf then 12 else 13) - r.bcnt.toNat) * c.bitCycles + 1 - r.tmr
  else if r.fsm = Fsm.recheck then (12 - r.bcnt.toNat) * c.bitCycles + 1 - r.tmr
  else 0

section Bound

variable {c : Config} {r : Regs}

theorem cyclesToValidate_idle (hf : r.fsm = Fsm.idle) : cyclesToValidate c r =
    13 * c.bitCycles + 3 * c.confCycles + if r.pend then 2 else if r.s2 then (if r.s1 then 5 else 4) else 3 := by
  simp [cyclesToValidate, hf]

theorem cyclesToValidate_confirm (hf : r.fsm = Fsm.confirm) : cyclesToValidate c r =
    13 * c.bitCycles + (2 - r.cidx.toNat) * c.confCycles + r.dcnt + 2 := by
  simp [cyclesToValidate, hf]

theorem cyclesToValidate_waitBit (hf : r.fsm = Fsm.waitBit) : cyclesToValidate c r =
    ((if r.cmpf then 12 else 13) - r.bcnt.toNat) * c.bitCycles + 1 - r.tmr := by
  simp [cyclesToValidate, hf]

theorem cyclesToValidate_recheck (hf : r.fsm = Fsm.recheck) : cyclesToValidate c r =
    (12 - r.bcnt.toNat) * c.bitCycles + 1 - r.tmr := by
  simp [cyclesToValidate, hf]

theorem cyclesToValidate_validate (hf : r.fsm = Fsm.validate) : cyclesToValidate c r = 0 := by
  simp [cyclesToValidate, hf]

/-- In the first cycle after reset a fall can be seen two cycles on at the earliest. -/
theorem cyclesToValidate_reset : cyclesToValidate c .reset = 13 * c.bitCycles + 3 * c.confCycles + 5 := rfl

/-- In IDLE with no edge pending, a fall can be seen at once at the earliest. -/
theorem cyclesToValidate_idle_ge (hf : r.fsm = Fsm.idle) (hp : r.pend = false) :
    13 * c.bitCycles + 3 * c.confCycles + 3 ≤ cyclesToValidate c r := by
  rw [cyclesToValidate_idle hf, if_neg (Bool.eq_false_iff.mp hp)]
  split_ifs <;> omega

end Bound

section Step

variable {i : Instr} {s : State}

/-- A bit shifted in takes one cycle from the bound at most: the count goes up with the timer's period it stands for. -/
theorem Resolved.cyclesToValidate_le {bit : Bool} {t : State} (h : Resolved 1 bit (s.regs.tmr + 1) s t)
    (hcount : s.regs.bcnt.toNat ≤ 12) :
    (12 - s.regs.bcnt.toNat) * s.cfg.bitCycles + 1 - s.regs.tmr ≤ cyclesToValidate t.cfg t.regs + 1 := by
  by_cases hlast : s.regs.bcnt = 12#4
  · rw [show 12 - s.regs.bcnt.toNat = 0 by rw [hlast]; rfl]
    omega
  · have hb : t.regs.bcnt.toNat = s.regs.bcnt.toNat + 1 := by rw [h.bcnt, toNat_count _ (by omega)]
    rw [cyclesToValidate_waitBit (by rw [h.fsm, if_neg hlast]), h.cmpf, h.timer, hb, h.ahead.cfg, if_neg Bool.false_ne_true,
      show 13 - (s.regs.bcnt.toNat + 1) = 12 - s.regs.bcnt.toNat by omega]
    omega

/-- A cycle that leads to RECHECK or stays there takes one cycle from the bound: only the timer moves. -/
theorem cyclesToValidate_recheck_le {t : State} (hf : t.regs.fsm = Fsm.recheck) (hcfg : t.cfg = s.cfg)
    (hb : t.regs.bcnt = s.regs.bcnt) (ht : t.regs.tmr = s.regs.tmr + 1) :
    (12 - s.regs.bcnt.toNat) * s.cfg.bitCycles + 1 - s.regs.tmr ≤ cyclesToValidate t.cfg t.regs + 1 := by
  rw [cyclesToValidate_recheck hf, hcfg, hb, ht]
  omega

/-- IDLE_WAIT: a high line takes one cycle for each synchroniser flop before a fall can be seen (40_edge.md R101). -/
theorem cyclesToValidate_idleWait_le (hsel : SelectedIn .idleWait s) :
    cyclesToValidate s.cfg s.regs ≤ cyclesToValidate s.cfg (operationEdge .idleWait s).regs + 1 := by
  have hf := hsel.edge_fsm
  obtain ⟨hs, hp⟩ := hsel
  obtain ⟨-, h2, -⟩ := operationEdge_synchroniser .idleWait s
  have hpend : (operationEdge .idleWait s).regs.pend = (s.regs.s3 && !s.regs.s2) := by
    rw [operationEdge_pend, hp]
    cases s.regs.s3 <;> cases s.regs.s2 <;> rfl
  rw [cyclesToValidate_idle hs, cyclesToValidate_idle hf, hp, h2, hpend]
  cases s.regs.s2 with
  | false => simp only [Bool.false_eq_true, if_false, Bool.not_false, Bool.and_true]; split_ifs <;> omega
  | true => simp only [if_true, Bool.false_eq_true, if_false, Bool.not_true, Bool.and_false]; split_ifs <;> omega

/-- BIT_WAIT: the timer counts, or its period ends and the compare flag stands for it. -/
theorem Inv.cyclesToValidate_bitWait_le (hi : Inv s) (hsel : SelectedIn .bitWait s) :
    cyclesToValidate s.cfg s.regs ≤ cyclesToValidate s.cfg (operationEdge .bitWait s).regs + 1 := by
  have hf := hsel.edge_fsm
  obtain ⟨hs, hm⟩ := hsel
  obtain ⟨hcount, -⟩ := hi.sampling (.inl hs)
  have htimer := hi.timer
  have hperiod : 13 - s.regs.bcnt.toNat = 12 - s.regs.bcnt.toNat + 1 := by omega
  have hb : (operationEdge .bitWait s).regs.bcnt = s.regs.bcnt := rfl
  rw [cyclesToValidate_waitBit hs, cyclesToValidate_waitBit hf, hb, operationEdge_tmr, operationEdge_cmpf, hm,
    if_neg Bool.false_ne_true, hperiod, Nat.succ_mul]
  by_cases ht : s.regs.tmr = s.cfg.bitCycles - 1
  · simp only [ht, reduceCtorEq, if_true, if_false]
    omega
  · simp only [ht, hperiod, reduceCtorEq, List.mem_cons, List.not_mem_nil, or_false, Bool.false_eq_true, if_false, Nat.succ_mul]
    omega

/-- Counting the reads, which goes to 2 (40_edge.md R107), does not wrap. -/
theorem index_succ {x : BitVec 2} (h : x.toNat ≤ 1) : (x + 1#2).toNat = x.toNat + 1 := by
  revert x
  decide

/-- No operation takes more than one cycle from the bound. -/
theorem Inv.cyclesToValidate_edge_le (hi : Inv s) (hr : s.input.rst = false) (hsel : SelectedIn i s) :
    cyclesToValidate s.cfg s.regs ≤ cyclesToValidate s.cfg (operationEdge i s).regs + 1 := by
  have hf := hsel.edge_fsm
  have hresolved := hi.resolves (noReset_one hr) hsel
  have htimer (hs : s.regs.fsm = Fsm.recheck) (h : i ≠ .passStart) := hi.timer_of_recheck hs h
  obtain ⟨hC, hB⟩ := wellFormed_bounds hi.config
  cases i with
  | idleWait => exact cyclesToValidate_idleWait_le hsel
  | passEnter =>
    obtain ⟨hs, hp⟩ := hsel
    rw [cyclesToValidate_idle hs, cyclesToValidate_confirm hf, if_pos hp]
    show _ ≤ 13 * s.cfg.bitCycles + (2 - 0) * s.cfg.confCycles + (s.cfg.confCycles - 1) + 2 + 1
    omega
  | confDelay =>
    obtain ⟨hs, hd⟩ := hsel
    rw [cyclesToValidate_confirm hs, cyclesToValidate_confirm hf]
    show _ ≤ 13 * s.cfg.bitCycles + (2 - s.regs.cidx.toNat) * s.cfg.confCycles + (s.regs.dcnt - 1) + 2 + 1
    omega
  | confNoise =>
    obtain ⟨hs, hd, -⟩ := hsel
    have hread : (2 - s.regs.cidx.toNat) * s.cfg.confCycles ≤ 2 * s.cfg.confCycles := Nat.mul_le_mul_right _ (Nat.sub_le ..)
    have hidle := cyclesToValidate_idle_ge (c := s.cfg) hf rfl
    rw [cyclesToValidate_confirm hs]
    omega
  | confNext =>
    obtain ⟨hs, hd, -, hne⟩ := hsel
    have hx : s.regs.cidx.toNat ≠ 2 := fun e => hne (BitVec.eq_of_toNat_eq e)
    have hx : s.regs.cidx.toNat ≤ 1 := by have := hi.index; omega
    have hreads : (2 - s.regs.cidx.toNat) * s.cfg.confCycles =
        (2 - (s.regs.cidx + 1#2).toNat) * s.cfg.confCycles + s.cfg.confCycles := by
      rw [← Nat.succ_mul, index_succ hx, show (2 - (s.regs.cidx.toNat + 1)).succ = 2 - s.regs.cidx.toNat by omega]
    rw [cyclesToValidate_confirm hs, cyclesToValidate_confirm hf, hd, hreads]
    show _ ≤ 13 * s.cfg.bitCycles + (2 - (s.regs.cidx + 1#2).toNat) * s.cfg.confCycles + (s.cfg.confCycles - 1) + 2 + 1
    omega
  | passStart =>
    obtain ⟨hs, hd, -, hx⟩ := hsel
    rw [cyclesToValidate_confirm hs, cyclesToValidate_waitBit hf, hd, hx]
    show 13 * s.cfg.bitCycles + (2 - 2) * s.cfg.confCycles + 0 + 2 ≤ (13 - 0) * s.cfg.bitCycles + 1 - 0 + 1
    omega
  | bitWait => exact hi.cyclesToValidate_bitWait_le hsel
  | bitZero =>
    obtain ⟨bit, h⟩ := hresolved (by decide)
    obtain ⟨hs, hm, -⟩ := hsel
    rw [cyclesToValidate_waitBit hs, if_pos hm]
    exact h.cyclesToValidate_le (hi.sampling (.inl hs)).1
  | bitProbe =>
    obtain ⟨hs, hm, -⟩ := hsel
    rw [cyclesToValidate_waitBit hs, if_pos hm]
    exact cyclesToValidate_recheck_le hf rfl rfl (hi.timer_of_compare hs hm (by decide)).1
  | rchkDelay | rchkNext =>
    rw [cyclesToValidate_recheck hsel.1]
    exact cyclesToValidate_recheck_le hf rfl rfl (htimer hsel.1 nofun).1
  | rchkZero | rchkOne =>
    obtain ⟨bit, h⟩ := hresolved (by decide)
    rw [cyclesToValidate_recheck hsel.1]
    exact h.cyclesToValidate_le (hi.sampling (.inr hsel.1)).1
  | frameAccept | frameReject => rw [cyclesToValidate_validate hsel.1]; exact Nat.zero_le _
  | illegalState5 =>
    have hs : s.regs.fsm = 5#3 := hsel
    simp [cyclesToValidate, hs]
  | illegalState67 => obtain hs | hs := hsel <;> simp [cyclesToValidate, hs]
  | rc5Accept | rc5RejectS2 | rc5RejectT => exact hsel.elim

end Step

/-- Nothing is further from VALIDATE than the reset state. -/
theorem Inv.cyclesToValidate_le_reset {s : State} (hi : Inv s) :
    cyclesToValidate s.cfg s.regs ≤ cyclesToValidate s.cfg .reset := by
  rw [cyclesToValidate_reset]
  have hdelay := hi.delay
  have hreads : (2 - s.regs.cidx.toNat) * s.cfg.confCycles ≤ 2 * s.cfg.confCycles := Nat.mul_le_mul_right _ (Nat.sub_le ..)
  have hbits : ((if s.regs.cmpf then 12 else 13) - s.regs.bcnt.toNat) * s.cfg.bitCycles ≤ 13 * s.cfg.bitCycles :=
    Nat.mul_le_mul_right _ (by split_ifs <;> omega)
  have hchecks : (12 - s.regs.bcnt.toNat) * s.cfg.bitCycles ≤ 13 * s.cfg.bitCycles := Nat.mul_le_mul_right _ (by omega)
  unfold cyclesToValidate
  generalize (if s.regs.cmpf then 12 else 13) - s.regs.bcnt.toNat = bits at hbits ⊢
  split_ifs <;> omega

/-- No step takes more than one cycle from the bound; a reset edge leads where it is largest. -/
theorem Inv.cyclesToValidate_step_le {s t : State} (hi : Inv s) (h : step s = .next t) :
    cyclesToValidate s.cfg s.regs ≤ cyclesToValidate t.cfg t.regs + 1 := by
  obtain ⟨-, rfl⟩ | ⟨hr, rfl⟩ := step_edge h
  · exact hi.cyclesToValidate_le_reset.trans (Nat.le_succ _)
  · exact hi.cyclesToValidate_edge_le hr (selectedIn_operation s)

/-- A strobe comes from VALIDATE, so whatever the environment does none comes while the bound lasts. -/
theorem Inv.no_strobe_before {n : Nat} {s t : State} (hi : Inv s) (hn : n < cyclesToValidate s.cfg s.regs)
    (h : cycles (n + 1) s = .next t) : t.regs.valid = false := by
  obtain ⟨u, hu, hrest⟩ := cycles_succ_next h
  induction n generalizing s u with
  | zero =>
    cases hrest
    refine Bool.eq_false_iff.mpr fun hv => ?_
    obtain ⟨hf, -⟩ := operation_eq_iff.mp ((step_valid_iff hu).mp hv).2
    rw [cyclesToValidate_validate hf] at hn
    exact Nat.not_lt_zero _ hn
  | succ n ih =>
    have hstep := hi.cyclesToValidate_step_le hu
    obtain ⟨v, hv, hlast⟩ := cycles_succ_next hrest
    exact ih (everyStepKeepsInvariant s u hi hu) (by omega) hrest v hv hlast

/-- Settles O49: the bound is at least `13 * BIT_CYCLES + 3 * CONF_CYCLES + 3` in a strobe cycle, and two more after reset. -/
theorem strobesKeepTheirDistance : Obligations.StrobesKeepTheirDistance := by
  refine ⟨fun s t n hi hv hpos hn h => ?strobe, fun c stim t n hc hn h => ?reset⟩
  case strobe =>
    obtain ⟨m, rfl⟩ : ∃ m, n = m + 1 := ⟨n - 1, by omega⟩
    obtain ⟨hf, hp, -⟩ := hi.strobing hv
    have hbound := cyclesToValidate_idle_ge (c := s.cfg) hf hp
    exact hi.no_strobe_before (by omega) h
  case reset =>
    cases n with
    | zero => cases h; rfl
    | succ m =>
      have hi : Inv (.resetWith c stim) := inv_of_reset hc rfl
      have hbound : cyclesToValidate c .reset = _ := cyclesToValidate_reset
      exact hi.no_strobe_before (Nat.lt_of_succ_lt_succ (hbound ▸ hn)) h

end Sys2Proof.Machine
end

section
/-! The line and the trigger: what the input level of a cycle leads to (40_edge.md R100 to R109). -/

namespace Sys2Proof.Machine

/-! ## The synchroniser -/

/-- A run without a reset, whatever operations it takes, moves along the line (40_edge.md R100). -/
theorem run_ahead (n : Nat) {s : State} (hc : s.cfg.wellFormed = true) (hr : s.NoReset n) :
    ∃ t, cycles n s = .next t ∧ Ahead n s t := by
  induction n generalizing s with
  | zero => exact ⟨s, rfl, .refl s⟩
  | succ n ih =>
    have hs := step_selected hc (hr.now n.succ_pos) (selectedIn_operation s)
    have ha := operationEdge_ahead s.operation s
    obtain ⟨t, hrun, hrest⟩ := ih (s := operationEdge s.operation s) hc (ha.noReset (Nat.add_comm n 1 ▸ hr))
    exact ⟨t, by rw [cycles_succ hs, hrun], Nat.add_comm 1 n ▸ ha.trans hrest⟩

/-- Settles O38: the line ahead of `s` two cycles past the input is that input. -/
theorem lineFollowsInputTwoCyclesLater : Obligations.LineFollowsInputTwoCyclesLater := by
  intro s k hc hr
  obtain ⟨t, hrun, ha⟩ := run_ahead (k + 2) hc hr
  exact ⟨t, hrun, (ha.line 0).trans (congrArg s.lineAt (Nat.zero_add _))⟩

/-! ## The start of a pass -/

/-- An armed block waits. -/
theorem Armed.operation_eq {s : State} (h : Armed s) : s.operation = .idleWait :=
  operation_eq_iff.mpr ⟨h.fsm, h.pend⟩

/-- IDLE with an edge pending: this cycle enters a pass. -/
structure Entering (s : State) : Prop where
  config : s.cfg.wellFormed = true
  fsm : s.regs.fsm = Fsm.idle
  pend : s.regs.pend = true

theorem Entering.operation_eq {s : State} (h : Entering s) : s.operation = .passEnter :=
  operation_eq_iff.mpr ⟨h.fsm, h.pend⟩

/-- The fall of the line is seen in its first low cycle (40_edge.md R101, R102). -/
theorem Armed.sees_fall {s : State} (h : Armed s) (hl : s.lineAt 0 = false) (hr : s.NoReset 1) :
    ∃ t, Silent 1 s t ∧ Entering t := by
  have hs2 : s.regs.s2 = false := hl
  have hpend : (operationEdge .idleWait s).regs.pend = true := by simp [operationEdge_pend, hs2, h.s3]
  exact ⟨_, step_silent (i := .idleWait) h.config hr ⟨h.fsm, h.pend⟩ rfl, h.config, h.fsm, hpend⟩

/-- On an idle block whose line has been high, the line is high for two more cycles, whatever the input. -/
theorem lineAt_of_synchroniser {s : State} (h1 : s.regs.s1 = true) (h2 : s.regs.s2 = true) {k : Nat} (hk : k < 2) :
    s.lineAt k = true := by
  match k with
  | 0 => exact h2
  | 1 => exact h1

/-- A low input on an idle block with a high line enters a pass three cycles later (40_edge.md R109). -/
theorem Armed.enters_of_low {s : State} (h : Armed s) (h1 : s.regs.s1 = true) (h2 : s.regs.s2 = true)
    (hlow : (s.inputAt 0).ir = false) (hr : s.NoReset 3) : ∃ t, Silent 3 s t ∧ Entering t := by
  obtain ⟨u, hu, harmed⟩ := h.run_high 2 (fun _ hk => lineAt_of_synchroniser h1 h2 hk) (hr.mono (by omega))
  obtain ⟨t, ht, hentering⟩ := harmed.sees_fall ((hu.ahead.line 0).trans hlow) (hu.ahead.noReset hr)
  exact ⟨t, hu.trans ht, hentering⟩

/-- Settles O39: the line is high for two cycles more, and the fall after them is seen in the third. -/
theorem passStartsThreeCyclesAfterFirstLow : Obligations.PassStartsThreeCyclesAfterFirstLow := by
  intro s hc hr hf hp h1 h2 h3 hlow
  have h : Armed s := ⟨hc, hf, hp, h3⟩
  have waits (n : Nat) (hn : n ≤ 2) : ∃ t, Silent n s t ∧ Armed t :=
    h.run_high n (fun _ hk => lineAt_of_synchroniser h1 h2 (by omega)) (hr.mono (by omega))
  obtain ⟨t1, hs1, ha1⟩ := waits 1 (by omega)
  obtain ⟨t2, hs2, ha2⟩ := waits 2 le_rfl
  obtain ⟨t3, hs3, he⟩ := h.enters_of_low h1 h2 hlow hr
  exact ⟨t1, t2, t3, hs1.run, hs2.run, hs3.run, h.operation_eq, ha1.operation_eq, ha2.operation_eq, he.operation_eq⟩

/-! ## The confirmation reads (40_edge.md R105 to R108) -/

/-- `n` cycles lead from `s` to the end `t` of a pass that the read `read` (counted from 1) found to be noise, in the last of them. -/
structure Noise (n read : Nat) (s t : State) : Prop where
  run : cycles n s = .next t
  fsm : t.regs.fsm = Fsm.idle
  pend : t.regs.pend = false
  outcomes : t.outcomes = s.outcomes ++ [⟨s.cycle + n - 1, .noise read⟩]
  ports : ports t.regs = restingPorts s.regs

/-- What goes before the read gives nothing away. -/
theorem Silent.noise {m n read : Nat} {s t u : State} (h : Silent m s t) (g : Noise n read t u) : Noise (m + n) read s u where
  run := by rw [cycles_add h.run, g.run]
  fsm := g.fsm
  pend := g.pend
  outcomes := by rw [g.outcomes, h.outputs.outcomes, h.ahead.cycle, Nat.add_assoc]
  ports := g.ports.trans h.outputs.restingPorts

section Reads

variable {s : State} {cidx : BitVec 2} {d : Nat}

/-- A high read selects CONF_NOISE. -/
theorem Confirming.selects_noise (h : Confirming cidx 0 s) (hl : s.regs.s2 = true) : SelectedIn .confNoise s :=
  ⟨h.fsm, h.dcnt, hl⟩

/-- CONF_NOISE ends the pass with the index of its read (40_edge.md R106, 60_exceptions.md R160). -/
theorem Confirming.noise (h : Confirming cidx 0 s) (hl : s.regs.s2 = true) (hr : s.NoReset 1) :
    Noise 1 (cidx.toNat + 1) s (operationEdge .confNoise s) where
  run := cycles_one (step_selected h.config (hr.now Nat.one_pos) (h.selects_noise hl))
  fsm := rfl
  pend := rfl
  outcomes := by rw [operationEdge_outcomes, ← h.cidx]; rfl
  ports := rfl

/-- Each delay of CONFIRM is reached when the reads before it are low. -/
theorem Confirming.reaches_delay (h : Confirming 0#2 d s) (hd : d + 1 = s.cfg.confCycles) {k : Nat} (hk : k ≤ 2)
    (hl : ∀ j, j < k → s.lineAt (j * (d + 1) + d) = false) (hr : s.NoReset (k * (d + 1))) :
    ∃ t, Silent (k * (d + 1)) s t ∧ Confirming (BitVec.ofNat 2 k) d t := by
  induction k with
  | zero => exact ⟨s, (Silent.refl s).congr (Nat.zero_mul _), h⟩
  | succ k ih =>
    rw [Nat.succ_mul] at hr ⊢
    obtain ⟨u, hu, hread⟩ := ih (by omega) (fun j hj => hl j (by omega)) (hr.mono (by omega))
    have hlow : u.lineAt d = false := by rw [hu.ahead.line, Nat.add_comm, hl k k.lt_succ_self]
    have hindex : BitVec.ofNat 2 k ≠ 2#2 := by
      rw [ne_eq, ← BitVec.toNat_inj, BitVec.toNat_ofNat, BitVec.toNat_ofNat]
      omega
    obtain ⟨t, ht, hnext⟩ := hread.next hlow hindex (hu.ahead.noReset hr)
    rw [← BitVec.ofNat_add, hu.ahead.cfg, ← hd, Nat.add_sub_cancel] at hnext
    exact ⟨t, hu.trans ht, hnext⟩

/-- The three reads come `CONF_CYCLES`, `2 * CONF_CYCLES` and `3 * CONF_CYCLES` cycles after the entry, each reached when those before
it are low (40_edge.md R109). -/
theorem Entering.reaches_read (h : Entering s) {k : Nat} (hk : k ≤ 2)
    (hl : ∀ j, j < k → s.lineAt ((j + 1) * s.cfg.confCycles) = false) (hr : s.NoReset ((k + 1) * s.cfg.confCycles)) :
    ∃ t, Silent ((k + 1) * s.cfg.confCycles) s t ∧ Confirming (BitVec.ofNat 2 k) 0 t ∧
      t.regs.s2 = s.lineAt ((k + 1) * s.cfg.confCycles) := by
  obtain ⟨hC, -⟩ := wellFormed_bounds h.config
  obtain ⟨d, hd⟩ : ∃ d, s.cfg.confCycles = d + 1 := ⟨_, (Nat.sub_add_cancel hC).symm⟩
  rw [hd] at hl hr ⊢
  have htotal : (k + 1) * (d + 1) = 1 + (k * (d + 1) + d) := by rw [Nat.succ_mul]; omega
  rw [htotal] at hr ⊢
  have henter : Silent 1 s (operationEdge .passEnter s) :=
    step_silent h.config (hr.mono (by omega)) ⟨h.fsm, h.pend⟩ rfl
  have hconf : Confirming 0#2 d (operationEdge .passEnter s) := ⟨h.config, rfl, rfl, (Nat.sub_eq_of_eq_add hd)⟩
  have hr' := henter.ahead.noReset hr
  obtain ⟨u, hu, hdelay⟩ := hconf.reaches_delay hd.symm hk
    (fun j hj => by rw [henter.ahead.line, ← hl j hj, Nat.succ_mul, Nat.add_assoc]) (hr'.mono (by omega))
  obtain ⟨t, ht, hread, hs2⟩ := hdelay.delay (hu.ahead.noReset hr')
  have hut := henter.trans (hu.trans ht)
  exact ⟨t, hut, hread, (hut.ahead.line 0).trans (by rw [Nat.zero_add])⟩

/-- A high read `k` (counted from 0), those before it low, ends the pass there. -/
theorem Entering.noise (h : Entering s) {k : Nat} (hk : k ≤ 2)
    (hl : ∀ j, j < k → s.lineAt ((j + 1) * s.cfg.confCycles) = false)
    (hhigh : s.lineAt ((k + 1) * s.cfg.confCycles) = true) (hr : s.NoReset ((k + 1) * s.cfg.confCycles + 1)) :
    ∃ u t, Silent ((k + 1) * s.cfg.confCycles) s u ∧ u.operation = .confNoise ∧ step u = .next t ∧
      Noise ((k + 1) * s.cfg.confCycles + 1) (k + 1) s t := by
  obtain ⟨u, hu, hread, hs2⟩ := h.reaches_read hk hl (hr.mono (Nat.le_succ _))
  have hr1 := hu.ahead.noReset hr
  have hsel := hread.selects_noise (hs2.trans hhigh)
  have hnoise := hread.noise (hs2.trans hhigh) hr1
  rw [BitVec.toNat_ofNat, Nat.mod_eq_of_lt (by omega)] at hnoise
  exact ⟨u, _, hu, hsel.operation_eq, step_selected hread.config (hr1.now Nat.one_pos) hsel, hu.noise hnoise⟩

/-- Three low reads start the bit timer. -/
theorem Entering.starts (h : Entering s) (hl : ∀ j, j < 3 → s.lineAt ((j + 1) * s.cfg.confCycles) = false)
    (hr : s.NoReset (3 * s.cfg.confCycles + 1)) :
    ∃ u t, Silent (3 * s.cfg.confCycles) s u ∧ u.operation = .passStart ∧ step u = .next t ∧ Started t ∧
      Silent (3 * s.cfg.confCycles + 1) s t := by
  obtain ⟨u, hu, hread, hs2⟩ := h.reaches_read le_rfl (fun j hj => hl j (by omega)) (hr.mono (Nat.le_succ _))
  have hr1 := hu.ahead.noReset hr
  have hsel : SelectedIn .passStart u := ⟨hread.fsm, hread.dcnt, hs2.trans (hl 2 (by omega)), hread.cidx⟩
  obtain ⟨htmr, hcmpf, hbcnt, hframe⟩ := operationEdge_passStart u
  exact ⟨u, _, hu, hsel.operation_eq, step_selected hread.config (hr1.now Nat.one_pos) hsel,
    ⟨hread.config, rfl, hcmpf, htmr, hbcnt, hframe⟩, hu.trans (step_silent hread.config hr1 hsel rfl)⟩

end Reads

/-! ## `pend` through a pass -/

/-- An operation that clears `pend` records an outcome (60_exceptions.md R160, R167). -/
theorem operationEdge_pend_or_outcome {s : State} (hp : s.regs.pend = true) (i : Instr) :
    (operationEdge i s).regs.pend = true ∨ s.outcomes.length < (operationEdge i s).outcomes.length := by
  by_cases hi : i ∈ [.confNoise, .frameAccept, .frameReject, .illegalState5, .illegalState67]
  · right
    simp only [List.mem_cons, List.not_mem_nil, or_false] at hi
    rw [operationEdge_outcomes, List.length_append]
    obtain rfl | rfl | rfl | rfl | rfl := hi <;> exact Nat.lt_succ_self _
  · exact .inl (operationEdge_pend_kept hp hi)

/-- The outcome log only grows. -/
theorem run_outcomes_le {n : Nat} {s t : State} (h : cycles n s = .next t) : s.outcomes.length ≤ t.outcomes.length := by
  refine cycles_keep (P := fun u => s.outcomes.length ≤ u.outcomes.length) (fun u v hle hstep => ?_) le_rfl h
  obtain ⟨-, rfl⟩ | ⟨-, rfl⟩ := step_edge hstep
  · exact hle
  · rw [operationEdge_outcomes, List.length_append]
    exact Nat.le_add_right_of_le hle

/-- While no outcome is recorded and no reset comes, `pend` stays set (60_exceptions.md R167). -/
theorem run_pend_kept {n : Nat} {s t : State} (hc : s.cfg.wellFormed = true) (hr : s.NoReset n) (hrun : cycles n s = .next t)
    (hlog : t.outcomes.length = s.outcomes.length) (hp : s.regs.pend = true) : t.regs.pend = true := by
  induction n generalizing s with
  | zero => cases hrun; exact hp
  | succ n ih =>
    have hstep := step_selected hc (hr.now n.succ_pos) (selectedIn_operation s)
    have hr := (operationEdge_ahead s.operation s).noReset (Nat.add_comm n 1 ▸ hr)
    rw [cycles_succ hstep] at hrun
    have hfirst := run_outcomes_le (cycles_one hstep)
    have hrest := run_outcomes_le hrun
    obtain hp | hlt := operationEdge_pend_or_outcome hp s.operation
    · exact ih (s := operationEdge s.operation s) hc hr hrun (by omega) hp
    · omega

/-- Settles O43: the entry leads to the first read, and each low read to the next. -/
theorem confirmationDecidesAtThreeReads : Obligations.ConfirmationDecidesAtThreeReads := by
  intro s hc hf hp hr
  have h : Entering s := ⟨hc, hf, hp⟩
  refine ⟨fun k h1 h3 hhigh hlow => ?noise, fun hlow => ?starts⟩
  case noise =>
    obtain ⟨j, rfl⟩ : ∃ j, k = j + 1 := ⟨k - 1, by omega⟩
    have hle : (j + 1) * s.cfg.confCycles ≤ 3 * s.cfg.confCycles := Nat.mul_le_mul_right _ h3
    obtain ⟨-, t, -, -, -, hnoise⟩ := h.noise (by omega) (fun i hi => hlow (i + 1) (by omega) (by omega)) hhigh
      (hr.mono (by omega))
    exact ⟨t, hnoise.run, hnoise.fsm, hnoise.pend, hnoise.outcomes, hnoise.ports⟩
  case starts =>
    obtain ⟨-, t, -, -, -, hstart, hsilent⟩ := h.starts (fun j hj => hlow (j + 1) (by omega) (by omega)) hr
    exact ⟨t, hsilent.run, hstart.fsm, hstart.tmr, hstart.cmpf, hstart.frame, hstart.bcnt,
      run_pend_kept hc hr hsilent.run (congrArg List.length hsilent.outputs.outcomes) hp, hsilent.outputs.outcomes⟩

/-- Settles O40: the pulse enters the pass in its fourth cycle, and a read is low exactly when the pulse lasts to it. -/
theorem lowPulseIsConfirmedByItsLength : Obligations.LowPulseIsConfirmedByItsLength := by
  intro s n hc hr hf hp h1 h2 h3 hn hlow hhigh
  have harmed : Armed s := ⟨hc, hf, hp, h3⟩
  obtain ⟨e, he, hentering⟩ := harmed.enters_of_low h1 h2 (hlow 0 hn) (hr.mono (by omega))
  have hline (k : Nat) : e.lineAt (k * e.cfg.confCycles) = (s.inputAt (k * s.cfg.confCycles + 1)).ir := by
    rw [he.ahead.line, he.ahead.cfg]
    rfl
  have hr' : e.NoReset (3 * e.cfg.confCycles + 1) := by
    rw [he.ahead.cfg]
    exact he.ahead.noReset (hr.mono (by omega))
  refine ⟨fun hlong => ?starts, fun k hk1 hk3 hshort hreach => ?noise⟩
  case starts =>
    have hle {j : Nat} (hj : j < 3) : (j + 1) * s.cfg.confCycles ≤ 3 * s.cfg.confCycles := Nat.mul_le_mul_right _ hj
    obtain ⟨u, t, hu, hop, hstep, hstart, ht⟩ := hentering.starts
      (fun j hj => (hline (j + 1)).trans (hlow _ (by have := hle hj; omega))) hr'
    rw [he.ahead.cfg] at hu
    exact ⟨u, t, ((he.trans hu).congr (Nat.add_comm ..)).run, hop, hstep, hstart.fsm, hstart.tmr,
      (he.trans ht).outputs.outcomes⟩
  case noise =>
    obtain ⟨j, rfl⟩ : ∃ j, k = j + 1 := ⟨k - 1, by omega⟩
    have hle : (j + 1) * s.cfg.confCycles ≤ 3 * s.cfg.confCycles := Nat.mul_le_mul_right _ hk3
    have hbefore {i : Nat} (hi : i < j) : (i + 1) * s.cfg.confCycles ≤ j * s.cfg.confCycles := Nat.mul_le_mul_right _ hi
    obtain ⟨u, t, hu, hop, hstep, hnoise⟩ := hentering.noise (k := j) (by omega)
      (fun i hi => (hline (i + 1)).trans (hlow _ (by
        have := hbefore hi
        rw [Nat.add_sub_cancel] at hreach
        omega)))
      ((hline (j + 1)).trans (hhigh _ (by omega) (by omega))) (hr'.mono (by rw [he.ahead.cfg]; omega))
    have hnoise := he.noise hnoise
    rw [he.ahead.cfg] at hu hnoise
    refine ⟨u, t, ((he.trans hu).congr (Nat.add_comm ..)).run, hop, hstep, hnoise.fsm, hnoise.pend, ?_⟩
    rw [hnoise.outcomes]
    congr 4
    omega

end Sys2Proof.Machine
end

section
/-! A pass always ends (60_exceptions.md R167): each of its stretches has a length, whatever the line does, and leads to the next or to
the end. -/

namespace Sys2Proof.Machine

/-! ## The end of a pass -/

/-- Within `n` cycles of `s` the block is back in IDLE, re-armed, with one more outcome recorded. -/
def EndsWithin (n : Nat) (s : State) : Prop :=
  ∃ m t, m ≤ n ∧ cycles m s = .next t ∧ t.regs.fsm = Fsm.idle ∧ t.regs.pend = false ∧
    t.outcomes.length = s.outcomes.length + 1

section Ends

variable {m n : Nat} {s t : State}

theorem EndsWithin.mono (h : EndsWithin m s) (hmn : m ≤ n) : EndsWithin n s := by
  obtain ⟨k, t, hk, hend⟩ := h
  exact ⟨k, t, hk.trans hmn, hend⟩

/-- Silent cycles before the end record nothing. -/
theorem Silent.endsWithin (h : Silent m s t) (g : EndsWithin n t) : EndsWithin (m + n) s := by
  obtain ⟨k, u, hk, hrun, hf, hp, hlog⟩ := g
  exact ⟨m + k, u, Nat.add_le_add_left hk m, (cycles_add h.run k).trans hrun, hf, hp, by rw [hlog, h.outputs.outcomes]⟩

theorem Noise.endsWithin {read : Nat} (h : Noise n read s t) : EndsWithin n s :=
  ⟨n, t, le_rfl, h.run, h.fsm, h.pend, by rw [h.outcomes]; exact List.length_append⟩

theorem Judged.endsWithin {f : BitVec 14} (h : Judged n f s t) : EndsWithin n s := by
  refine ⟨n, t, le_rfl, h.run, h.fsm, h.pend, ?_⟩
  cases ha : accept s.cfg f with
  | true => rw [(h.accepted ha).1]; exact List.length_append
  | false => rw [(h.rejected ha).1]; exact List.length_append

end Ends

/-! ## The bits -/

/-- A pass with `j` bits still to come and no compare event pending; with none to come, the timer shows how long the last one took. -/
structure BitsLeft (j : Nat) (s : State) : Prop where
  config : s.cfg.wellFormed = true
  fsm : s.regs.fsm = if j = 0 then Fsm.validate else Fsm.waitBit
  cmpf : s.regs.cmpf = false
  bcnt : s.regs.bcnt.toNat + j = 13
  tmr_lt : s.regs.tmr < s.cfg.bitCycles
  tmr_le : j = 0 → s.regs.tmr ≤ 2 * s.cfg.confCycles + 1

section Bits

variable {j n tmr : Nat} {bit : Bool} {s t : State}

/-- A resolved bit leaves one less. -/
theorem Resolved.bitsLeft (h : Resolved n bit tmr s t) (hc : s.cfg.wellFormed = true) (hb : s.regs.bcnt.toNat + j = 12)
    (htmr : tmr ≤ 2 * s.cfg.confCycles + 1) : BitsLeft j t := by
  obtain ⟨-, hB⟩ := wellFormed_bounds hc
  have hlast : s.regs.bcnt = 12#4 ↔ j = 0 := by
    rw [← BitVec.toNat_inj, BitVec.toNat_ofNat]
    omega
  have hcount : t.regs.bcnt.toNat = s.regs.bcnt.toNat + 1 := by rw [h.bcnt, toNat_count _ (by omega)]
  exact {
    config := by rw [h.ahead.cfg, hc]
    fsm := by rw [h.fsm, if_congr hlast rfl rfl]
    cmpf := h.cmpf
    bcnt := by rw [hcount]; omega
    tmr_lt := by rw [h.timer, h.ahead.cfg]; omega
    tmr_le := fun _ => by rw [h.timer, h.ahead.cfg]; exact htmr }

/-- Each bit takes a period of the timer, the last the rest of its reads, and VALIDATE one cycle. -/
theorem BitsLeft.endsWithin (h : BitsLeft j s)
    (hr : s.NoReset (j * s.cfg.bitCycles + 2 * s.cfg.confCycles + 2 - s.regs.tmr)) :
    EndsWithin (j * s.cfg.bitCycles + 2 * s.cfg.confCycles + 2 - s.regs.tmr) s := by
  obtain ⟨-, hB⟩ := wellFormed_bounds h.config
  have htmr := h.tmr_lt
  induction j generalizing s with
  | zero =>
    have hle := h.tmr_le rfl
    obtain ⟨t, ht⟩ := validate_judged h.config (by rw [h.fsm, if_pos rfl]) (hr.mono (by omega))
    exact ht.endsWithin.mono (by omega)
  | succ j ih =>
    rw [Nat.succ_mul] at hr ⊢
    have hle := resolveDelayAt_le s (s.cfg.bitCycles - s.regs.tmr)
    obtain ⟨t, ht⟩ := bit_resolves h.config (by rw [h.fsm, if_neg j.succ_ne_zero]) h.cmpf
      (q := s.cfg.bitCycles - s.regs.tmr) (by omega) (by omega) (hr.mono (by omega))
    have hleft : BitsLeft j t := ht.bitsLeft h.config (by have := h.bcnt; omega) (by omega)
    have hrest := ih hleft (by rw [ht.ahead.cfg, ht.timer]; exact ht.ahead.noReset (hr.mono (by omega)))
      (by rw [ht.ahead.cfg]; exact hB) hleft.tmr_lt
    rw [ht.ahead.cfg, ht.timer] at hrest
    exact (ht.silent.endsWithin hrest).mono (by omega)

/-- A bit under way is resolved by its own reads, and the bits after it follow. -/
theorem Resolved.endsWithin (h : Resolved n bit tmr s t) (hc : s.cfg.wellFormed = true) (hb : s.regs.bcnt.toNat ≤ 12)
    (hn : n ≤ tmr) (htmr : tmr ≤ 2 * s.cfg.confCycles + 1)
    (hr : s.NoReset (13 * s.cfg.bitCycles + 2 * s.cfg.confCycles + 2)) :
    EndsWithin (13 * s.cfg.bitCycles + 2 * s.cfg.confCycles + 2) s := by
  have hleft : BitsLeft (12 - s.regs.bcnt.toNat) t := h.bitsLeft hc (Nat.add_sub_cancel' hb) htmr
  have hmul : (12 - s.regs.bcnt.toNat) * s.cfg.bitCycles ≤ 12 * s.cfg.bitCycles := Nat.mul_le_mul_right _ (Nat.sub_le ..)
  have hrest := hleft.endsWithin (by rw [h.ahead.cfg, h.timer]; exact h.ahead.noReset (hr.mono (by omega)))
  rw [h.ahead.cfg, h.timer] at hrest
  exact (h.silent.endsWithin hrest).mono (by omega)

/-- WAIT_BIT: the wait for the next compare event, or the reads it starts. -/
theorem Inv.endsWithin_of_waitBit (hi : Inv s) (hf : s.regs.fsm = Fsm.waitBit)
    (hr : s.NoReset (13 * s.cfg.bitCycles + 2 * s.cfg.confCycles + 2)) :
    EndsWithin (13 * s.cfg.bitCycles + 2 * s.cfg.confCycles + 2) s := by
  obtain ⟨-, hB⟩ := wellFormed_bounds hi.config
  obtain ⟨hb, -⟩ := hi.sampling (.inl hf)
  cases hm : s.regs.cmpf with
  | true =>
    have hle := resolveDelayAt_le s 0
    obtain ⟨t, ht⟩ := reads_resolve hi.config hf hm (hi.waiting hf hm) (hr.mono (by omega))
    exact ht.endsWithin hi.config hb le_rfl (by omega) hr
  | false =>
    have hmul : (13 - s.regs.bcnt.toNat) * s.cfg.bitCycles ≤ 13 * s.cfg.bitCycles := Nat.mul_le_mul_right _ (Nat.sub_le ..)
    have hleft : BitsLeft (13 - s.regs.bcnt.toNat) s :=
      ⟨hi.config, by rw [hf, if_neg (by omega)], hm, by omega, hi.timer, by omega⟩
    exact (hleft.endsWithin (hr.mono (by omega))).mono (by omega)

/-- RECHECK: one re-check or two, at the timer values the invariant gives. -/
theorem Inv.endsWithin_of_recheck (hi : Inv s) (hf : s.regs.fsm = Fsm.recheck)
    (hr : s.NoReset (13 * s.cfg.bitCycles + 2 * s.cfg.confCycles + 2)) :
    EndsWithin (13 * s.cfg.bitCycles + 2 * s.cfg.confCycles + 2) s := by
  obtain ⟨hC, hB⟩ := wellFormed_bounds hi.config
  obtain ⟨hb, -⟩ := hi.sampling (.inr hf)
  obtain ⟨hx, hm, htimer⟩ := hi.rechecking hf
  have hcheck : Rechecking s.regs.cidx s.regs.dcnt s.regs.tmr s := ⟨hi.config, hf, rfl, rfl, rfl, hm⟩
  have hlast : (s.regs.cidx.toNat + 1) * s.cfg.confCycles ≤ 2 * s.cfg.confCycles := Nat.mul_le_mul_right _ (by omega)
  by_cases hread : s.lineAt s.regs.dcnt = true ∨ s.regs.cidx = 1#2
  · obtain ⟨t, ht⟩ := hcheck.resolved hread (by omega) (hr.mono (by omega))
    exact ht.endsWithin hi.config hb (by omega) (by omega) hr
  · obtain ⟨hlow, hne⟩ := not_or.mp hread
    rw [index_zero hx hne] at hcheck htimer
    have htimer : s.regs.tmr + s.regs.dcnt = s.cfg.confCycles := htimer.trans (Nat.one_mul _)
    obtain ⟨u, hu, hsecond⟩ := hcheck.firstLow (Bool.eq_false_iff.mpr hlow) (by omega) (hr.mono (by omega))
    obtain ⟨t, ht⟩ := hsecond.resolved (.inr rfl) (by rw [hu.ahead.cfg]; omega) (hu.ahead.noReset (hr.mono (by omega)))
    exact (hu.resolved ht).endsWithin hi.config hb (by omega) (by omega) hr

end Bits

/-! ## The confirmation -/

theorem Started.endsWithin {s : State} (h : Started s) (hr : s.NoReset (13 * s.cfg.bitCycles + 2 * s.cfg.confCycles + 2)) :
    EndsWithin (13 * s.cfg.bitCycles + 2 * s.cfg.confCycles + 2) s := by
  have hle := resolveDelayAt_le s (13 * s.cfg.bitCycles)
  obtain ⟨t, ht⟩ := h.judged hr
  exact ht.endsWithin.mono (by omega)

/-- A high read ends the pass as noise. -/
theorem Confirming.endsWithin_of_high {cidx : BitVec 2} {d : Nat} {s : State} (h : Confirming cidx d s)
    (hl : s.lineAt d = true) (hr : s.NoReset (d + 1)) : EndsWithin (d + 1) s := by
  obtain ⟨t, ht, hread, hs2⟩ := h.delay (hr.mono (Nat.le_succ d))
  exact (ht.noise (hread.noise (hs2.trans hl) (ht.ahead.noReset hr))).endsWithin

/-- CONFIRM with `j` reads after the next: each read ends the pass or leads to the next, the last to the bits. -/
theorem Confirming.endsWithin {cidx : BitVec 2} {d j : Nat} {s : State} (h : Confirming cidx d s) (hj : cidx.toNat + j = 2)
    (hr : s.NoReset (d + 1 + j * s.cfg.confCycles + (13 * s.cfg.bitCycles + 2 * s.cfg.confCycles + 2))) :
    EndsWithin (d + 1 + j * s.cfg.confCycles + (13 * s.cfg.bitCycles + 2 * s.cfg.confCycles + 2)) s := by
  induction j generalizing cidx d s with
  | zero =>
    cases hl : s.lineAt d with
    | true => exact (h.endsWithin_of_high hl (hr.mono (by omega))).mono (by omega)
    | false =>
      obtain rfl : cidx = 2#2 := BitVec.eq_of_toNat_eq hj
      obtain ⟨t, ht, hstart⟩ := h.starts hl (hr.mono (by omega))
      have hrest := hstart.endsWithin (by rw [ht.ahead.cfg]; exact ht.ahead.noReset (hr.mono (by omega)))
      rw [ht.ahead.cfg] at hrest
      exact (ht.endsWithin hrest).mono (by omega)
  | succ j ih =>
    cases hl : s.lineAt d with
    | true => exact (h.endsWithin_of_high hl (hr.mono (by omega))).mono (by omega)
    | false =>
      have hne : cidx ≠ 2#2 := by rintro rfl; exact absurd hj (by simp)
      obtain ⟨t, ht, hnext⟩ := h.next hl hne (hr.mono (by omega))
      obtain ⟨hC, -⟩ := wellFormed_bounds h.config
      rw [Nat.succ_mul] at hr ⊢
      have hrest := ih hnext (by rw [index_succ (by omega)]; omega)
        (by rw [ht.ahead.cfg]; exact ht.ahead.noReset (hr.mono (by omega)))
      rw [ht.ahead.cfg] at hrest
      exact (ht.endsWithin hrest).mono (by omega)

/-- Settles O48: from each state of a running pass, the stretches ahead of it one after the other. -/
theorem passAlwaysEnds : Obligations.PassAlwaysEnds := by
  intro s hi hf hr
  obtain ⟨hC, -⟩ := wellFormed_bounds hi.config
  have hends : EndsWithin (13 * s.cfg.bitCycles + 5 * s.cfg.confCycles + 2) s := by
    obtain hs | hs | hs | hs | hs | hs := fsm_cases s.regs.fsm
    · exact absurd hs hf
    · have hconf : Confirming s.regs.cidx s.regs.dcnt s := ⟨hi.config, hs, rfl, rfl⟩
      have hdelay := hi.delay
      have hreads : (2 - s.regs.cidx.toNat) * s.cfg.confCycles ≤ 2 * s.cfg.confCycles := Nat.mul_le_mul_right _ (Nat.sub_le ..)
      exact (hconf.endsWithin (Nat.add_sub_cancel' hi.index) (hr.mono (by omega))).mono (by omega)
    · exact (hi.endsWithin_of_waitBit hs (hr.mono (by omega))).mono (by omega)
    · exact (hi.endsWithin_of_recheck hs (hr.mono (by omega))).mono (by omega)
    · obtain ⟨t, ht⟩ := validate_judged hi.config hs (hr.mono (by omega))
      exact ht.endsWithin.mono (by omega)
    · exact absurd hs (Nat.not_lt.mpr hi.legal)
  obtain ⟨n, t, hn, hrun, hidle, hp, hlog⟩ := hends
  exact ⟨n, t, hn, hrun, hidle, hp, hlog.symm⟩

end Sys2Proof.Machine
end

section
/-! A line that stays at one level through a pass (70_reset_and_hazards.md R185). -/

namespace Sys2Proof.Machine

/-- A started pass that reads the bits of `f` below S1 assembles `f`, whatever the line did while S1 was sent. -/
theorem assembledFrame_of_bits {f : BitVec 14} {s : State} (hS1 : f.getLsbD 13 = true)
    (hread : ∀ k, k < 13 → s.bitReadAt ((k + 1) * s.cfg.bitCycles) = f.getLsbD (12 - k)) {k : Nat} (hk : k ≤ 13) :
    s.assembledFrame k = f >>> (13 - k) := by
  induction k with
  | zero => exact (shiftRight_thirteen hS1).symm
  | succ k ih =>
    rw [State.assembledFrame, ih (by omega), hread k (by omega), show 13 - k = 12 - k + 1 by omega, shiftLeft_or_next_bit,
      show 13 - (k + 1) = 12 - k by omega]

/-- A started pass whose 13 bits all have the value `bit`. -/
theorem assembledFrame_of_level {s : State} {bit : Bool}
    (hread : ∀ k, k < 13 → s.bitReadAt ((k + 1) * s.cfg.bitCycles) = bit) :
    s.assembledFrame 13 = if bit then 0x3FFF#14 else 0x2000#14 := by
  have hbits : ∀ k < 13, (0x3FFF#14).getLsbD (12 - k) = true ∧ (0x2000#14).getLsbD (12 - k) = false := by decide
  cases bit with
  | true => exact assembledFrame_of_bits rfl (fun k hk => (hread k hk).trans (hbits k hk).1.symm) le_rfl
  | false => exact assembledFrame_of_bits rfl (fun k hk => (hread k hk).trans (hbits k hk).2.symm) le_rfl

/-- The default mask rejects both frames of a dead line: one has S2 = 0, the other T = 1. -/
theorem accept_deadLine {c : Config} (hmask : c.acceptMask = 0x1800#14) (hmatch : c.acceptMatch = 0x1000#14) (bit : Bool) :
    accept c (if bit then 0x3FFF#14 else 0x2000#14) = false := by
  rw [accept, hmask, hmatch]
  cases bit <;> rfl

/-- A started pass whose bits are all read alike is rejected under the default mask. -/
theorem Started.rejects_dead_line {s : State} {bit : Bool} {delay : Nat} (hstarted : Started s)
    (hmask : s.cfg.acceptMask = 0x1800#14) (hmatch : s.cfg.acceptMatch = 0x1000#14)
    (hread : ∀ k, k < 13 → s.bitReadAt ((k + 1) * s.cfg.bitCycles) = bit)
    (hdelay : s.resolveDelayAt (13 * s.cfg.bitCycles) = delay)
    (hr : s.NoReset (13 * s.cfg.bitCycles + 2 * s.cfg.confCycles + 2)) :
    ∃ t, cycles (13 * s.cfg.bitCycles + delay + 2) s = .next t ∧ t.regs.fsm = Fsm.idle ∧ t.regs.valid = false ∧
      t.outcomes = s.outcomes ++
        [⟨s.cycle + 13 * s.cfg.bitCycles + delay + 1, .reject (if bit then 0x3FFF#14 else 0x2000#14)⟩] := by
  obtain ⟨t, h⟩ := hstarted.judged hr
  rw [hdelay, assembledFrame_of_level hread] at h
  obtain ⟨hlog, hports⟩ := h.rejected (accept_deadLine hmask hmatch bit)
  have hcycle : t.cycle - 1 = s.cycle + 13 * s.cfg.bitCycles + delay + 1 := by rw [h.cycle]; omega
  exact ⟨t, h.run, h.fsm, congrArg Ports.frameValid hports, hcycle ▸ hlog⟩

/-- Settles O46: all 13 bits are read alike, and neither frame they give is accepted. -/
theorem deadLinesGiveRejectedFrames : Obligations.DeadLinesGiveRejectedFrames := by
  intro s hc hmask hmatch hf hm ht hb hframe hr
  have hstarted : Started s := ⟨hc, hf, hm, ht, hb, hframe⟩
  have hfirst {k : Nat} : s.cfg.bitCycles ≤ (k + 1) * s.cfg.bitCycles := Nat.le_mul_of_pos_left _ k.succ_pos
  have hlast {k : Nat} (hk : k < 13) : (k + 1) * s.cfg.bitCycles ≤ 13 * s.cfg.bitCycles := Nat.mul_le_mul_right _ hk
  refine ⟨fun hhigh => ?high, fun hlow => ?low⟩
  case high =>
    have reads {k : Nat} (hk : k < 13) := reads_of_first_high (hhigh _ (hfirst (k := k)) (hlast hk))
    exact hstarted.rejects_dead_line (bit := false) hmask hmatch (fun k hk => (reads hk).2)
      (reads (k := 12) (by omega)).1 hr
  case low =>
    have low {k x : Nat} (hk : k < 13) (hx : x ≤ 2 * s.cfg.confCycles) : s.lineAt ((k + 1) * s.cfg.bitCycles + x) = false :=
      hlow _ (Nat.le_add_right_of_le hfirst) (Nat.add_le_add (hlast hk) hx)
    have reads {k : Nat} (hk : k < 13) :=
      reads_of_level (low hk (Nat.zero_le _)) (low hk (Nat.le_mul_of_pos_left _ Nat.two_pos)) (low hk le_rfl)
    exact hstarted.rejects_dead_line (bit := true) hmask hmatch (fun k hk => (reads hk).1) (reads (k := 12) (by omega)).2 hr

end Sys2Proof.Machine
end

section
/-! Words and their instructions: decoding undoes encoding, and every frame is in one class (30_encoding.md R70 to R78). -/

namespace Sys2Proof.Machine

/-! ## Words in their format -/

/-- Every frame is made of fields (30_encoding.md R70). -/
theorem exists_fields (f : BitVec 14) : ∃ s1 s2 tog a c, f = frameOfFields s1 s2 tog a c :=
  ⟨_, _, _, _, _, (frameOfFields_fields f).symm⟩

/-- Encoding the decoded frame gives every bit back. -/
theorem encode_decodeFrame (f : BitVec 14) : encode (decodeFrame f) = .frame14 f := by
  obtain ⟨s1, s2, tog, a, c, rfl⟩ := exists_fields f
  rw [decodeFrame_frameOfFields]
  cases s2 <;> cases tog <;> rfl

/-- Decoding an instruction's word gives the instruction back, by the format of its row. -/
theorem decode_encode (i : Instr) : decode (encode i) = i := by
  cases i with
  | rc5Accept | rc5RejectS2 | rc5RejectT => exact decodeFrame_frameOfFields ..
  | _ => decide

/-! ## Words without a format (log 5) -/

/-- In 16 bits, a number below 1024 is a selector word. -/
theorem wordOfBits_selector (sel : BitVec 10) : wordOfBits 16 sel.toNat = .ok (.selector sel) := by
  have hlt := sel.isLt
  rw [wordOfBits, if_neg (by omega), if_neg (by omega), if_neg (by decide), if_neg (by decide), if_pos hlt,
    BitVec.ofNat_toNat, BitVec.setWidth_eq]

/-- A frame with S1 = 1 is at least `2 ^ 13` as a number, so in 16 bits it is a frame. -/
theorem wordOfBits_frame {f : BitVec 14} (hS1 : f.getLsbD 13 = true) : wordOfBits 16 f.toNat = .ok (.frame14 f) := by
  have hlt := f.isLt
  have hge : 2 ^ 13 ≤ f.toNat := Nat.ge_two_pow_of_testBit hS1
  rw [wordOfBits, if_neg (by omega), if_neg (by omega), if_neg (by decide), if_neg (by decide), if_neg (by omega),
    BitVec.ofNat_toNat, BitVec.setWidth_eq]

/-- The word of a well-formed instruction is read back from its bare 16-bit number. -/
theorem wordOfBits_encode {i : Instr} (hi : i.wellFormed = true) : wordOfBits 16 (encode i).bits.toNat = .ok (encode i) := by
  have frame {s1 : Bool} (hs1 : s1 = true) (s2 tog : Bool) (a : BitVec 5) (c : BitVec 6) :
      wordOfBits 16 (frameOfFields s1 s2 tog a c).toNat = .ok (.frame14 (frameOfFields s1 s2 tog a c)) :=
    wordOfBits_frame ((startField1_frameOfFields ..).trans hs1)
  have selector (sel : BitVec 10) : wordOfBits 16 (Word.selector sel).bits.toNat = .ok (.selector sel) := by
    rw [Word.bits, BitVec.toNat_setWidth_of_le (by decide), wordOfBits_selector]
  cases i with
  | rc5Accept | rc5RejectS2 | rc5RejectT => exact frame hi ..
  | _ => exact selector _

/-- Settles O7: the word decodes to its instruction, and in a bare 16-bit number the word is found again. -/
theorem decodeOfEncodeIsIdentity : Obligations.DecodeOfEncodeIsIdentity := by
  refine ⟨decode_encode, fun i hi => ?_⟩
  rw [decodeTableWord, decodeBits, wordOfBits_encode hi]
  exact congrArg some (decode_encode i)

/-- Settles O8: each word's fields by evaluation. -/
theorem knownWordsDecode : Obligations.KnownWordsDecode := by
  unfold Obligations.KnownWordsDecode
  decide

/-! ## Frame classes -/

/-- A frame is the assembly of its fields and of no others (30_encoding.md R70). -/
theorem eq_frameOfFields_iff {f : BitVec 14} {s1 s2 tog : Bool} {a : BitVec 5} {c : BitVec 6} :
    f = frameOfFields s1 s2 tog a c ↔
      startField1 f = s1 ∧ startField2 f = s2 ∧ toggleField f = tog ∧ addressField f = a ∧ commandField f = c := by
  constructor
  · rintro rfl
    simp
  · rintro ⟨rfl, rfl, rfl, rfl, rfl⟩
    exact (frameOfFields_fields f).symm

/-- Which frames a class row accepts: those with the bits 12 and 11 it fixes (30_encoding.md R78). -/
theorem accepts_frame_iff {i : Instr} (hi : isOperation i = false) (f : BitVec 14) :
    (tableRow i).accepts (.frame14 f) = true ↔ f &&& (tableRow i).mask = (tableRow i).value := by
  have hformat : (tableRow i).format = .frame14 := by
    cases i with
    | rc5Accept | rc5RejectS2 | rc5RejectT => rfl
    | _ => exact absurd hi (by decide)
  simp [TableRow.accepts, Word.format, Word.bits, hformat]

theorem isOperation_decodeFrame (f : BitVec 14) : isOperation (decodeFrame f) = false := by
  unfold decodeFrame
  split_ifs <;> rfl

/-- The row of a decoded frame accepts the frame. -/
theorem decodeFrame_row_accepts (f : BitVec 14) : (tableRow (decodeFrame f)).accepts (.frame14 f) = true := by
  rw [← encode_decodeFrame]
  have hframe := isOperation_decodeFrame f
  generalize decodeFrame f = i at hframe ⊢
  cases i with
  | rc5Accept => exact Laws.RowMatch.rc5Accept ..
  | rc5RejectS2 => exact Laws.RowMatch.rc5RejectS2 ..
  | rc5RejectT => exact Laws.RowMatch.rc5RejectT ..
  | _ => exact absurd hframe (by decide)

/-- The rows of the frame classes. They do not depend on a frame's fields, so any frame of the class gives its row. -/
def classRows : List TableRow :=
  [tableRow (.rc5Accept true 0#5 0#6), tableRow (.rc5RejectS2 true false 0#5 0#6), tableRow (.rc5RejectT true 0#5 0#6)]

theorem mem_classRows {i : Instr} (hi : isOperation i = false) : tableRow i ∈ classRows := by
  cases i with
  | rc5Accept => exact .head _
  | rc5RejectS2 => exact .tail _ (.head _)
  | rc5RejectT => exact .tail _ (.tail _ (.head _))
  | _ => exact absurd hi (by decide)

/-- Two class rows that agree on the bits both fix are one row. -/
theorem classRows_disjoint : ∀ row ∈ classRows, ∀ other ∈ classRows,
    row.value &&& other.mask = other.value &&& row.mask → row = other := by
  decide

/-- Settles O6: the decoded class's row accepts the frame, and two class rows with a frame in common are one. -/
theorem frameHasExactlyOneClass : Obligations.FrameHasExactlyOneClass := by
  intro f i hi
  have hown := decodeFrame_row_accepts f
  refine ⟨⟨fun h => ?_, fun h => h ▸ hown⟩, encode_decodeFrame f, fun _ _ _ _ _ => eq_frameOfFields_iff⟩
  have hframe := isOperation_decodeFrame f
  rw [accepts_frame_iff hi] at h
  rw [accepts_frame_iff hframe] at hown
  refine classRows_disjoint _ (mem_classRows hframe) _ (mem_classRows hi) ?_
  rw [← hown, ← h, BitVec.and_assoc, BitVec.and_assoc, BitVec.and_comm (tableRow _).mask]

end Sys2Proof.Machine
end

section
/-! The step and its configuration (00_scope.md R5, R6). -/

namespace Sys2Proof.Machine

/-- Conditions 1 to 3 of 00_scope.md R6. -/
theorem wellFormed_iff {c : Config} : c.wellFormed = true ↔
    1 ≤ c.confCycles ∧ 2 * c.confCycles + 2 ≤ c.bitCycles ∧ c.acceptMatch &&& ~~~c.acceptMask = 0#14 := by
  simp only [Config.wellFormed, Config.confOk, Config.bitOk, Config.matchOk, Bool.and_eq_true, decide_eq_true_eq, beq_iff_eq,
    and_assoc]

/-- A well-formed configuration gives every step a next state. -/
theorem step_total {s : State} (hc : s.cfg.wellFormed = true) : ∃ t, step s = .next t := by
  rw [step_wellFormed hc]
  split_ifs
  · exact ⟨_, rfl⟩
  · exact exec_completes _ _

/-- Settles O3: the step tests the three conditions first, and no meaning refuses. -/
theorem stepRefusesExactlyIllFormedConfigs : Obligations.StepRefusesExactlyIllFormedConfigs := by
  intro s
  rw [← wellFormed_iff]
  exact ⟨step_total, fun h => if_neg h⟩

/-- Settles O26: no edge, of an operation or of reset, writes the configuration, and each takes one input from the stream. -/
theorem configurationNeverChanges : Obligations.ConfigurationNeverChanges := by
  intro s t h
  obtain ⟨hcfg, hcycle, hstim⟩ := step_surroundings h
  exact ⟨hcfg, hcycle, inputAt_advance hcycle hstim⟩

/-- Rounding to the nearest is off by half a unit at most, whichever way a tie goes (00_scope.md R5). -/
theorem defaultBitCycles_bounds (hz : PNat) :
    2 * 1000000 * Config.defaultBitCycles hz ≤ 2 * 1778 * hz.val + 1000000 ∧
      2 * 1778 * hz.val ≤ 2 * 1000000 * Config.defaultBitCycles hz + 1000000 := by
  unfold Config.defaultBitCycles
  dsimp only
  split_ifs <;> omega

/-- With `CONF_CYCLES`, the mask and the match at their defaults, 16 cycles per bit are enough for all four conditions of
00_scope.md R6. -/
theorem defaults_wellFormed_aligned {c : Config} (hB : 16 ≤ c.bitCycles) (hconf : c.confCycles = c.bitCycles / 16)
    (hmask : c.acceptMask = Config.defaultAcceptMask) (hmatch : c.acceptMatch = Config.defaultAcceptMatch) :
    c.wellFormed = true ∧ c.aligned = true := by
  refine ⟨wellFormed_iff.mpr ⟨by omega, by omega, ?_⟩, decide_eq_true (by omega)⟩
  rw [hmask, hmatch, Config.defaults_matchOk]

/-- Settles O37: each field of the elaborated configuration is what is given, or else its default. -/
theorem defaultConfigIsWellFormedAndAligned : Obligations.DefaultConfigIsWellFormedAndAligned := by
  refine ⟨fun hz given => ⟨rfl, ?bit, ?bitDefault, ?conf, ?confDefault, ?mask, ?maskDefault, ?accMatch, ?accMatchDefault⟩,
    fun hz b hB => defaults_wellFormed_aligned hB rfl rfl rfl⟩
  case bit | conf | mask | accMatch => intro x h; simp [h]
  case bitDefault => intro h; simpa [h] using defaultBitCycles_bounds hz
  case confDefault => intro h; simp [h, Config.defaultConfCycles]
  case maskDefault | accMatchDefault => intro h; simp [h, Config.defaultAcceptMask, Config.defaultAcceptMatch]

end Sys2Proof.Machine
end

section
/-! The frame words (42_frame.md R140, R141). -/

namespace Sys2Proof.Machine

/-- A frame word is the VALIDATE cycle on its frame (log 4). -/
theorem exec_decodeFrame (f : BitVec 14) (s : State) : exec (decodeFrame f) s = .next (validateFrame s f) := by
  obtain ⟨s1, s2, tog, a, c, rfl⟩ := exists_fields f
  rw [decodeFrame_frameOfFields]
  cases s2 <;> cases tog <;> rfl

/-- In VALIDATE the sequencer runs the VALIDATE cycle on the frame register. -/
theorem exec_operation_validate {s : State} (hf : s.regs.fsm = Fsm.validate) :
    exec s.operation s = .next (validateFrame s s.regs.frame) := by
  rw [operation_validate hf, validateFrame]
  split_ifs <;> rfl

/-- Settles O10: both are the VALIDATE cycle on the frame register. -/
theorem validateRunsTheFrameWord : Obligations.ValidateRunsTheFrameWord := by
  intro s hc hr hf
  rw [step_operation hc hr, exec_operation_validate hf, exec_decodeFrame]

/-- Settles O22: FRAME_ACCEPT's result, or FRAME_REJECT's, with the frame in the frame register. -/
theorem frameWordsResult : Obligations.FrameWordsResult := by
  intro s s1 tog a c i f hi
  have hexec : exec i s = .next (validateFrame s f) := by
    obtain ⟨rfl, rfl⟩ | ⟨rfl, rfl⟩ | ⟨rfl, rfl⟩ := hi <;> rfl
  obtain ⟨rfl, rfl⟩ : commandField f = c ∧ addressField f = a := by
    obtain ⟨-, rfl⟩ | ⟨-, rfl⟩ | ⟨-, rfl⟩ := hi <;> exact ⟨commandField_frameOfFields .., addressField_frameOfFields ..⟩
  obtain ⟨haccept, hval⟩ | ⟨hreject, hval⟩ := validateFrame_cases s f
  · obtain ⟨hresult, -⟩ := frameAcceptResult (s.withFrame f)
    rw [hval] at hexec
    exact ⟨_, hexec, rfl, rfl, rfl, fun _ => ⟨rfl, congrArg State.regs (Host.Outcome.next.inj hresult)⟩,
      fun h => absurd (accept_iff.mp haccept) h⟩
  · obtain ⟨hresult, -⟩ := frameRejectResult (s.withFrame f)
    rw [hval] at hexec
    exact ⟨_, hexec, rfl, rfl, rfl, fun h => absurd (accept_iff.mpr h) (Bool.eq_false_iff.mp hreject),
      fun _ => ⟨rfl, congrArg State.regs (Host.Outcome.next.inj hresult)⟩⟩

end Sys2Proof.Machine
end

section
/-! Placing a word as the next one (log 6): the registers set for a selector word give each of its bits. -/

namespace Sys2Proof.Machine

/-- A placed word leaves no reset in this cycle. -/
theorem input_stimWithoutReset {s : State} (h : ∃ x, s.stim = stimWithoutReset x) : s.input.rst = false := by
  obtain ⟨x, hx⟩ := h
  rw [State.input, State.inputAt, hx]
  cases x <;> rfl

/-- `cidxFor` gives the index whose `lastc` bit is asked for (10_state.md R39). -/
theorem lastConfirmation_cidxFor (fsm : BitVec 3) (lastc : Bool) (x : BitVec 2) :
    (if fsm = Fsm.confirm then cidxFor fsm lastc x == 2#2 else cidxFor fsm lastc x == 1#2) = lastc := by
  unfold cidxFor
  by_cases hf : fsm = Fsm.confirm
  · simp only [hf, if_true]
    revert lastc x
    decide
  · simp only [hf, if_false]
    revert lastc x
    decide

/-- A match value without bits outside the mask matches itself (00_scope.md R6 condition 3). -/
theorem accept_acceptMatch {c : Config} (hc : c.wellFormed = true) : accept c c.acceptMatch = true := by
  have hmatch := wellFormed_match hc
  refine accept_iff.mpr (BitVec.eq_of_getLsbD_eq fun i hi => ?_)
  have hbit := congrArg (·.getLsbD i) hmatch
  revert hbit
  simp only [BitVec.getLsbD_and, BitVec.getLsbD_not, hi, decide_true, Bool.true_and, BitVec.getLsbD_zero]
  cases c.acceptMatch.getLsbD i <;> cases c.acceptMask.getLsbD i <;> simp

/-- The complement of the match value is rejected, unless the mask compares nothing: a compared bit would equal its complement. -/
theorem accept_not_acceptMatch {c : Config} (h : c.acceptMask ≠ 0#14) : accept c (~~~c.acceptMatch) = false := by
  refine Bool.eq_false_iff.mpr fun haccept => h (BitVec.eq_of_getLsbD_eq fun i hi => ?_)
  have hbit := congrArg (·.getLsbD i) (accept_iff.mp haccept)
  revert hbit
  simp only [BitVec.getLsbD_and, BitVec.getLsbD_not, hi, decide_true, Bool.true_and, BitVec.getLsbD_zero]
  cases c.acceptMatch.getLsbD i <;> cases c.acceptMask.getLsbD i <;> simp

/-- `frameFor` gives a frame whose `acc` bit is the one asked for, but for a rejection under a mask of 0. -/
theorem accept_frameFor {c : Config} (hc : c.wellFormed = true) {acc : Bool} (h : acc = true ∨ c.acceptMask ≠ 0#14)
    (f : BitVec 14) : accept c (frameFor c acc f) = acc := by
  unfold frameFor
  by_cases hkept : accept c f = acc
  · rw [if_pos hkept, hkept]
  · rw [if_neg hkept]
    cases acc with
    | true => exact accept_acceptMatch hc
    | false => exact accept_not_acceptMatch (h.resolve_left Bool.false_ne_true)

/-- Outside VALIDATE the selection does not read `acc` (30_encoding.md R77). -/
theorem selectOperation_acc {fsm : BitVec 3} (h : fsm ≠ Fsm.validate) (p d l m c a b : Bool) :
    selectOperation fsm p d l m c a = selectOperation fsm p d l m c b := by
  simp only [selectOperation, if_neg h]

/-- The delay counter set to show a `dz` bit shows it. -/
theorem delay_shows (dz : Bool) (d : Nat) : ((if dz then 0 else if d = 0 then 1 else d) == 0) = dz := by
  cases dz with
  | true => rfl
  | false => by_cases hd : d = 0 <;> simp [hd]

/-- The registers set for a selector word select its operation, but for a FRAME_REJECT under a mask of 0. -/
theorem operation_placeWord {s : State} (hc : s.cfg.wellFormed = true) {sel : BitVec 10}
    (h : s.cfg.acceptMask = 0#14 → decodeSelector sel ≠ .frameReject) :
    (placeWord s (.selector sel)).operation = decodeSelector sel := by
  have hdelay : delayDone (regsForSelector s.cfg sel s.regs) = sel.getLsbD 5 := delay_shows ..
  have hlast : lastConfirmation (regsForSelector s.cfg sel s.regs) = sel.getLsbD 2 := lastConfirmation_cidxFor ..
  rw [operation_eq]
  show selectOperation (sel.extractLsb' 7 3) (sel.getLsbD 6) (delayDone (regsForSelector s.cfg sel s.regs)) (sel.getLsbD 4)
    (sel.getLsbD 3) (lastConfirmation (regsForSelector s.cfg sel s.regs))
    (accept s.cfg (frameFor s.cfg (sel.getLsbD 0) s.regs.frame)) = decodeSelector sel
  rw [hdelay, hlast]
  by_cases hacc : sel.getLsbD 0 = true ∨ s.cfg.acceptMask ≠ 0#14
  · rw [accept_frameFor hc hacc]
    rfl
  · obtain ⟨hrej, hmask⟩ := not_or.mp hacc
    refine selectOperation_acc (fun hf => h (not_not.mp hmask) ?_) ..
    rw [decodeSelector, hf, Bool.eq_false_iff.mpr hrej]
    rfl

/-- Settles O9: a selector word is placed with the registers that select its operation, a frame in VALIDATE. -/
theorem placedWordIsRun : Obligations.PlacedWordIsRun := by
  intro s hc
  refine ⟨fun sel h => ?selector, fun f hS1 => ?frame⟩
  case selector =>
    have hplaced : s.withFetchWord 16 sel.toNat = placeWord s (.selector sel) := by
      rw [State.withFetchWord, placeBits, wordOfBits_selector]
    have hrst : (placeWord s (.selector sel)).input.rst = false := input_stimWithoutReset ⟨s.stim, rfl⟩
    rw [hplaced, step_operation (s := placeWord s (.selector sel)) hc hrst, operation_placeWord hc h]
  case frame =>
    have hplaced : s.withFetchWord 16 f.toNat = placeWord s (.frame14 f) := by
      rw [State.withFetchWord, placeBits, wordOfBits_frame hS1]
    have hrst : (placeWord s (.frame14 f)).input.rst = false := input_stimWithoutReset ⟨s.stim, rfl⟩
    rw [hplaced]
    exact validateRunsTheFrameWord (placeWord s (.frame14 f)) hc hrst rfl

end Sys2Proof.Machine
end

section
/-! A frame's waveform (30_encoding.md R71, R80). -/

namespace Sys2Proof.Machine

/-- A frame fills 14 cells. -/
theorem frameInputs_length {c : Config} (heven : c.bitCycles % 2 = 0) (f : BitVec 14) :
    (frameInputs c f).length = 14 * c.bitCycles := by
  have hcells : (sentBits f).map (fun b => (cellInputs c b).length) = List.replicate 14 c.bitCycles := by
    simp [cellInputs_length heven, List.map_const', sentBits_length]
  rw [frameInputs, List.length_flatMap, hcells, List.sum_replicate, smul_eq_mul]

/-- Settles O42: 14 cells, each the bit's level and then its inverse. -/
theorem frameWaveformIsManchester : Obligations.FrameWaveformIsManchester :=
  fun _ f _ _ heven hk hj => ⟨frameInputs_length heven f, frameInputs_getElem? heven hk hj⟩

end Sys2Proof.Machine
end
